-- ==== Sys2Proof/Word.lean ====
section
/-! DEFINITION. The two word types of the block: the byte (00_scope.md R8, 20_memory.md R52) and the
16-bit command word (30_encoding.md R94). -/

namespace Sys2Proof

/-- A byte: an unsigned 8-bit value, bit 7 the top bit (R8). -/
abbrev Byte := BitVec 8

/-- A command word, `cw[15:0]` (R94). -/
abbrev CmdWord := BitVec 16

end Sys2Proof
end

