-- ==== Sys2Proof/Config.lean ====
section
/-! DEFINITION. The parameters of the block (00_scope.md R6): those the source fixes are constants, the
`OPEN` ones that a rule reads are the fields of `Config`, an argument of the model carried in `State.cfg`
(log 1). The three parameters that are timing only (IDLE_TICK_PERIOD, SYNC_PAUSE, BIT_RATE) are left out
(log 12). The one free value of the model, `Config.softFirst`, stands here. -/

namespace Sys2Proof

/-- MGMT_SOFT_ORDER (R6): the order of a Soft-Overflow report relative to the management frame of the same
relay call. -/
inductive SoftOrder where
  | after
  | either
  deriving DecidableEq, Repr

/-- The OPEN parameters of R6. `outqSize = none` is an unbounded outgoing queue (R73). -/
structure Config where
  rbSize        : Nat
  idleThreshold : Nat
  timerWidth    : Nat
  syncInterval  : Nat
  outqSize      : Option Nat
  mgmtSoftOrder : SoftOrder
  deriving DecidableEq, Repr

namespace Config

/-- The constraints R6 places on the parameters. -/
abbrev Legal (c : Config) : Prop :=
  3 ≤ c.rbSize ∧ c.rbSize ≤ 256 ∧
  1 ≤ c.idleThreshold ∧ c.idleThreshold ≤ 255 ∧
  1 ≤ c.timerWidth ∧
  1 ≤ c.syncInterval ∧ c.syncInterval < 2 ^ c.timerWidth ∧
  c.outqSize ≠ some 0

/-- DESIGN CHOICE (log 1): the parameters of `State.reset` are the defaults of 95_test_vectors.md, with the
outgoing queue unbounded, as R73 allows. -/
def vectors : Config where
  rbSize        := 8
  idleThreshold := 3
  timerWidth    := 16
  syncInterval  := 0x1000
  outqSize      := none
  mgmtSoftOrder := .after

/-- FREE VALUE (log 7). With MGMT_SOFT_ORDER = either, whether the n-th choice puts the Soft-Overflow report
before the management frame; R204 and R240 item 3 leave it open. -/
opaque softFirst : Nat → Bool

end Config

/-- PAYLOAD_MAX: the largest payload of a frame, in bytes (R6). -/
def payloadMax : Nat := 12

/-- RUN_LEN: payload bytes per side-channel byte (R6). -/
def runLen : Nat := 7

/-- LOCAL_ADDR: the address of a locally originated frame (R6, R120). -/
def localAddr : BitVec 3 := 0

end Sys2Proof
end

