-- ==== Sys2Proof/Syntax.lean ====
section
/-! DEFINITION. The operations of the block as syntax: one constructor per row of spec/opcode_table.json, in
the table's order, with the operands of 30_encoding.md R94 and R95; the command that carries one to the block;
the pseudo-instructions of R98. -/

namespace Sys2Proof

/-- One operation invocation (R94). `now` is the counter value that accompanies SYNC. -/
inductive Instr where
  /-- START p: `ENC_START` (R121). -/
  | start (p : BitVec 4)
  /-- SEND b: `ENC_SEND` (R122). -/
  | send (b : Byte)
  /-- END: `ENC_END` (R123). -/
  | endFrame
  /-- RX b: `RX_BYTE` with fe = 0, ovr = 0 (R160). -/
  | rx (b : Byte)
  /-- RX.OVR b: `RX_BYTE` with fe = 0, ovr = 1 (R160). -/
  | rxOvr (b : Byte)
  /-- RX.FE b: `RX_BYTE` with fe = 1, ovr = 0 (R160). -/
  | rxFe (b : Byte)
  /-- RX.FE.OVR b: `RX_BYTE` with fe = 1, ovr = 1 (R160). -/
  | rxFeOvr (b : Byte)
  /-- POLL: `RELAY_POLL` (R200). -/
  | poll
  /-- TICK t: `IDLE_TICK` with tx_idle = t (R141). -/
  | tick (t : Bool)
  /-- SYNC now: `SYNC_POLL` (R142). -/
  | sync (now : Nat)
  /-- RESET (R260). -/
  | reset
  deriving DecidableEq, Repr

/-- What the outer loop hands to the block: a command word, and beside it the W-bit counter value that SYNC
reads (R94). The other operations do not read `now`. -/
structure Command where
  word : CmdWord
  now  : Nat
  deriving DecidableEq, Repr

/-- The operation's name in the assembler of R97, which is its row's mnemonic in the opcode table. -/
def Instr.mnemonic : Instr → String
  | .start _   => "START"
  | .send _    => "SEND"
  | .endFrame  => "END"
  | .rx _      => "RX"
  | .rxOvr _   => "RX.OVR"
  | .rxFe _    => "RX.FE"
  | .rxFeOvr _ => "RX.FE.OVR"
  | .poll      => "POLL"
  | .tick _    => "TICK"
  | .sync _    => "SYNC"
  | .reset     => "RESET"

/-- `FRAME p, b1, ..., bn` (R98). -/
def frameOps (p : BitVec 4) (payload : List Byte) : List Instr :=
  .start p :: (payload.map .send ++ [.endFrame])

/-- `RXS b1, ..., bn` (R98). -/
def rxOps (bytes : List Byte) : List Instr := bytes.map .rx

/-- `IDLEWAIT k` (R98). -/
def idleWaitOps (k : Nat) : List Instr := List.replicate k (.tick true)

end Sys2Proof
end

