-- ==== Sys2Proof/Machine/State.lean ====
section
/-! DEFINITION. The state of the block: the elements of 10_state.md R40's table, the outgoing symbol stream
(00_scope.md R15), the outgoing queue's occupancy (20_memory.md R73), the poll context's position inside the
operation in progress (R21, R62), and the model's own fields (parameters, schedule, free-value counter). Faults
and refusals by name (60_exceptions.md R234, R235). The state after reset (70_reset_and_hazards.md R260, R261). -/

namespace Sys2Proof.Machine

/-- The contents of the ring buffer: (index, byte) with indices strictly rising. A cell that is not listed holds
the byte `unlistedCell` of Machine/Ops.lean (log 3). -/
abbrev Memory := List Host.Cell

/-- The receive mode (R27). -/
inductive Mode where
  /-- DISCARD: there is no valid open frame; arriving body bytes are dropped. -/
  | discard
  /-- OPEN: a valid open frame begins at `head` and ends before `wr`. -/
  | opened
  deriving DecidableEq, Repr

/-- A symbol of the outgoing stream (R15). -/
inductive Symbol where
  | byte (b : Byte)
  | gap
  deriving DecidableEq, Repr

/-- A micro-step of the poll context (R62): one access to state it shares with the interrupt context, or one
Push, together with the poll context's own updates beside it (log 5). The arguments are the call-local values
of R200 and R205: `h` the head snapshot, `u` the unit's first cell, `d` the start-byte delta, `b` the body cell
just read, `last` whether that cell ends its unit. -/
inductive Micro where
  /-- `h <- head`, the top of the relay's loop (R201). -/
  | readHead
  /-- `u <- buf[tail]` (R200). -/
  | readUnit (h : Nat)
  /-- Read `buf[inc(tail)]`: does the `0x80` at `tail` stand alone (R203)? -/
  | peekIdle (h : Nat)
  /-- `tail <- inc(tail)` past an Idle unit (R203). -/
  | skipIdle
  /-- `tail <- inc(tail)` past a pseudo unit (R204). -/
  | takePseudo (u : Byte)
  /-- Read `buf[inc(tail)]`: is the start byte the whole data unit (R205)? -/
  | peekStart (h : Nat) (u : Byte)
  /-- `tail <- inc(tail)` past the start byte of a data unit (R205). -/
  | takeStart (h : Nat) (u : Byte) (last : Bool)
  /-- `b <- buf[tail]` (R205). -/
  | readBody (h : Nat) (d : Byte)
  /-- Read `buf[inc(tail)]`: is `b` the last cell of the unit (R205)? -/
  | peekBody (h : Nat) (d b : Byte)
  /-- `tail <- inc(tail)` past a body cell (R205). -/
  | takeBody (h : Nat) (d b : Byte) (last : Bool)
  /-- `TestAndClear(ovf)`, and the choice to report (R202, R204, R207). -/
  | testAndClear
  /-- `TrackerReset(); Push(b)`: the first byte of a frame the relay emits (R209). -/
  | startFrame (b : Byte)
  /-- `Push(b)`. -/
  | push (b : Byte)
  /-- `ENC_START`: tracker reset, push of the start byte, encoder restarted (R121). -/
  | pushStart (s : Byte)
  /-- `ENC_SEND`: the payload byte (R122). -/
  | pushPayload (b : Byte)
  /-- The side-channel byte of the run that ends here (R122, R123). -/
  | pushSide
  /-- `ENC_END`: the checksum byte (R123). -/
  | pushCheck
  /-- `IDLE_TICK`: the Idle Frame (R141). -/
  | pushIdle
  deriving DecidableEq, Repr

/-- What happens to the block, in the order the run's schedule gives (R60 to R62, R65; log 4). -/
inductive Event where
  /-- The outer loop issues a command; it is taken when no operation of the poll context is in progress. -/
  | issue (c : Command)
  /-- A byte arrives with its line-status flags, `wait` micro-steps of the poll context after the event before
  it; at once when the poll context takes no micro-step (no operation in progress, or a Push holding). -/
  | arrive (wait : Nat) (b : Byte) (fe ovr : Bool)
  /-- The drainer frees one slot of the outgoing queue; placed as `arrive` is. -/
  | drain (wait : Nat)
  deriving DecidableEq, Repr

structure State where
  /-- The parameters (R6); no operation changes them. -/
  cfg       : Config
  /-- `buf` (R22). -/
  buf       : Memory
  /-- `head` (R23). -/
  head      : Nat
  /-- `wr` (R24). -/
  wr        : Nat
  /-- `tail` (R25). -/
  tail      : Nat
  /-- `ovf` (R26). -/
  ovf       : Bool
  /-- `mode` (R27). -/
  mode      : Mode
  /-- `enc.active` (R29). -/
  encActive : Bool
  /-- `enc.csum` (R30). -/
  encCsum   : Byte
  /-- `enc.hb` (R31). -/
  encHb     : BitVec 7
  /-- `enc.cnt` (R33). -/
  encCnt    : Nat
  /-- `enc.n` (R34). -/
  encN      : Nat
  /-- `idle.cnt` (R35). -/
  idleCnt   : Byte
  /-- `idle.done` (R36). -/
  idleDone  : Bool
  /-- `sync.ref` (R37). -/
  syncRef   : Nat
  /-- The outgoing symbol stream pushed so far, oldest symbol first (R15). -/
  out       : List Symbol
  /-- How many pushed bytes the external outgoing queue holds (R73; log 10). -/
  queued    : Nat
  /-- The micro-steps the operation in progress still has to take; none between operations (R21, R62). -/
  todo      : List Micro
  /-- The schedule of the run: what is still to happen (log 4). -/
  agenda    : List Event
  /-- How many free values have been drawn (log 7). -/
  draws     : Nat
  deriving DecidableEq, Repr

/-- The operations that can find no frame open (R234). -/
inductive EncOp where
  | send
  | endFrame
  deriving DecidableEq, Repr

/-- The contract faults of R234. A fault ends the run: the mark is sticky (R11). -/
inductive Fault where
  /-- Raised by SEND and END when `enc.active = 0` (R122, R123). Safe: the spec's own fault. -/
  | encNotStarted (op : EncOp)
  /-- Raised by SEND on a 13th payload byte (R122). Safe: the spec's own fault. -/
  | encPayloadTooLong
  /-- Raised by POLL when a local frame is open (R200). Safe: the spec's own fault. -/
  | relayDuringFrame
  /-- Raised by SYNC when a local frame is open (R142). Safe: the spec's own fault. -/
  | pauseDuringFrame
  /-- Raised by POLL on a unit that no rule of the receiver makes (R208). Safe: the spec's own fault. -/
  | bufferInvariant
  deriving DecidableEq, Repr

/-- Why an operation has no meaning. -/
inductive Refusal where
  /-- Raised by `step` on a command word that spells no operation (R96, R235). Safe: the spec's own refusal. -/
  | reservedCommand
  /-- Raised by an arm of `exec` whose instruction has no meaning yet. Safe: the model stops. -/
  | notModelled (mnemonic : String)
  deriving DecidableEq, Repr

/-- The state after reset with the parameters `c`: every element of R261's table at its value, the cells of `buf`
at any contents `m` (R22, R261; 93_implementation_defined.md row 1), nothing pushed, the outgoing queue empty, no
operation in progress, nothing scheduled. -/
def State.resetWith (c : Config) (m : Memory) : State where
  cfg       := c
  buf       := m
  head      := 0
  wr        := 0
  tail      := 0
  ovf       := false
  mode      := .discard
  encActive := false
  encCsum   := 0
  encHb     := 0
  encCnt    := 0
  encN      := 0
  idleCnt   := 0
  idleDone  := false
  syncRef   := 0
  out       := []
  queued    := 0
  todo      := []
  agenda    := []
  draws     := 0

/-- The block right after reset, with the default parameters of the test vectors (log 1) and no cell of `buf`
listed: each holds `unlistedCell`, one of the contents R261 admits (DESIGN CHOICE, log 3). -/
def State.reset : State := State.resetWith Config.vectors []

end Sys2Proof.Machine
end

