-- ==== Sys2Proof/Machine/Operands.lean ====
section
/-! DEFINITION. The fields of a wire byte (00_scope.md R12, 30_encoding.md R80), the ring buffer's codes (R92),
and the values the operations assemble from their operands (R95, R121, R122, R142, R205). -/

namespace Sys2Proof.Machine

/-- `is_start(b)`: bit 7 is 1 (R12, R80). -/
def isStart (b : Byte) : Bool := b[7]

/-- `addr(s) = s[6:4]` (R12). -/
def addr (b : Byte) : BitVec 3 := b.extractLsb' 4 3

/-- `proto(s) = s[3:0]` (R12). -/
def proto (b : Byte) : BitVec 4 := b.extractLsb' 0 4

/-- The frame-start byte `0x80 | (a << 4) | p` (R80). -/
def startByte (a : BitVec 3) (p : BitVec 4) : Byte :=
  0x80 ||| (a.zeroExtend 8 <<< 4) ||| p.zeroExtend 8

/-- The reserved address, 7 (R81). -/
def reservedAddr : BitVec 3 := 7

/-- `RB_MAL`, the pseudo-frame Malformed-Packet (R92). -/
def rbMal : Byte := 0xF2

/-- `RB_CTL`, the pseudo-frame Chain-Too-Long (R92). -/
def rbCtl : Byte := 0xF3

/-- `RB_HOVF`, the pseudo-frame Hard-Overflow (R92). -/
def rbHovf : Byte := 0xF5

/-- The cell holds a pseudo-frame code that a rule writes (R92). -/
def isPseudo (u : Byte) : Bool := u == rbMal || u == rbCtl || u == rbHovf

/-- A frame-start byte with a legal address, `0x80`..`0xEF` (R81). -/
def isLegalStart (u : Byte) : Bool := decide (0x80 ≤ u.toNat ∧ u.toNat ≤ 0xEF)

/-- The Idle Frame, the single byte `0x80` (R7, R82). -/
def idleByte : Byte := 0x80

/-- The clipped body byte `b & 0x7F` (R83, R122). -/
def clip (b : Byte) : Byte := b &&& 0x7F

/-- `b[7] << i` in the 7 bits of the side-channel accumulator (R122). -/
def sideBit (b : Byte) (i : Nat) : BitVec 7 := (BitVec.ofBool (b[7])).zeroExtend 7 <<< i

/-- The start byte one hop on: the address field incremented, `u + 0x10` (R205). -/
def nextHop (u : Byte) : Byte := u + 0x10

/-- The counter value of SYNC: W bits (R95, R243; log 9). -/
def counterValue (c : Config) (now : Nat) : Nat := now % 2 ^ c.timerWidth

/-- `(a - b) mod 2^W` (R9). -/
def counterDiff (c : Config) (a b : Nat) : Nat :=
  (a + (2 ^ c.timerWidth - b % 2 ^ c.timerWidth)) % 2 ^ c.timerWidth

/-- `sat8(x) = min(x, 255)` of the incremented count (R9, R141). -/
def satInc (x : Byte) : Byte := BitVec.ofNat 8 (min (x.toNat + 1) 255)

end Sys2Proof.Machine
end

