-- ==== Sys2Proof/Machine/Ops.lean ====
section
/-! DEFINITION. The named operations over the ring buffer, the outgoing stream and queue, and the schedule.

The block has no trap mechanism (60_exceptions.md R236): there is no saved program counter, status or vector to
write, so no operation here takes or returns from an exception. What the spec calls an interrupt is one receive
step between two micro-steps of the poll context, which saves nothing (R239); its entry is the schedule's
(`State.due`), and its return is the poll context's next micro-step. -/

namespace Sys2Proof.Machine

/-! ## The ring buffer's contents -/

/-- What a cell that the memory does not list holds. DESIGN CHOICE (log 3): the cells' values at power-up are
unspecified (R22, R261), and `State.reset` takes this one for all of them; `State.resetWith` takes any. -/
def unlistedCell : Byte := 0

/-- The value of the cell `i`. -/
def Memory.read : Memory → Nat → Byte
  | [], _ => unlistedCell
  | (j, b) :: m, i => if j = i then b else Memory.read m i

/-- List the cell `i` before `m`, unless it holds what an unlisted cell holds. -/
def Memory.put (m : Memory) (i : Nat) (b : Byte) : Memory := if b = unlistedCell then m else (i, b) :: m

/-- Write the cell `i`, keeping the canonical form. -/
def Memory.write : Memory → Nat → Byte → Memory
  | [], i, b => Memory.put [] i b
  | (j, c) :: m, i, b =>
    if i < j then Memory.put ((j, c) :: m) i b
    else if i = j then Memory.put m i b
    else (j, c) :: Memory.write m i b

/-- The indices of the list are strictly rising. -/
def Memory.rising : Memory → Bool
  | [] => true
  | [_] => true
  | a :: b :: m => decide (a.1 < b.1) && Memory.rising (b :: m)

/-- The canonical form: indices strictly rising, and no entry equal to what an unlisted cell holds. -/
def Memory.wf (m : Memory) : Bool := Memory.rising m && m.all fun c => c.2 != unlistedCell

/-- Contents that a ring buffer of the parameters `c` can have: the canonical form, and only cells that exist
(R22). -/
abbrev Memory.fits (c : Config) (m : Memory) : Prop := m.wf = true ∧ ∀ e ∈ m, e.1 < c.rbSize

/-! ## Indices and cells -/

/-- `inc(i) = (i + 1) mod RB_SIZE` (R9, R51). -/
def State.inc (s : State) (i : Nat) : Nat := (i + 1) % s.cfg.rbSize

/-- `(b - a) mod RB_SIZE`: how many cells from `a` forward up to but not including `b` (R51, R57). -/
def State.span (s : State) (a b : Nat) : Nat := (b + (s.cfg.rbSize - a % s.cfg.rbSize)) % s.cfg.rbSize

/-- `Room()`: `inc(wr) != tail` (R56). -/
def State.room (s : State) : Bool := s.inc s.wr != s.tail

/-- `buf[i]`; the index wraps modulo RB_SIZE (R50; log 8). -/
def State.cell (s : State) (i : Nat) : Byte := s.buf.read (i % s.cfg.rbSize)

/-- `buf[i] <- b` (R10; log 8). -/
def State.setCell (s : State) (i : Nat) (b : Byte) : State :=
  { s with buf := s.buf.write (i % s.cfg.rbSize) b }

/-! ## The outgoing stream and queue -/

/-- The outgoing queue can take `n` more bytes (R73). -/
def State.roomFor (s : State) (n : Nat) : Bool :=
  match s.cfg.outqSize with
  | none   => true
  | some k => decide (s.queued + n ≤ k)

/-- `Push(b)` with a free slot (R10, R73). -/
def State.pushed (s : State) (b : Byte) : State :=
  { s with out := s.out ++ [.byte b], queued := s.queued + 1 }

/-- `PushGap()`: the sync pause takes no slot of the byte queue and never holds (R73, R143). -/
def State.pushedGap (s : State) : State := { s with out := s.out ++ [.gap] }

/-- The drainer takes one byte of the queue, if there is one (R73). -/
def State.drained (s : State) : State := { s with queued := s.queued - 1 }

/-! ## The schedule -/

/-- The micro-step pushes a byte, and so holds while the queue is full. -/
def Micro.pushes : Micro → Bool
  | .readHead | .readUnit _ | .peekIdle _ | .skipIdle | .takePseudo _ | .peekStart _ _ | .takeStart _ _ _
  | .readBody _ _ | .peekBody _ _ _ | .takeBody _ _ _ _ | .testAndClear => false
  | .startFrame _ | .push _ | .pushStart _ | .pushPayload _ | .pushSide | .pushCheck | .pushIdle => true

/-- The operation in progress holds inside a Push (R11, R73). -/
def State.held (s : State) : Bool :=
  match s.todo with
  | []     => false
  | m :: _ => m.pushes && !s.roomFor 1

/-- An arriving byte or a drainer step falls before the poll context's next micro-step (R61). -/
def State.due (s : State) : Bool :=
  match s.agenda with
  | .arrive 0 _ _ _ :: _ => true
  | .drain 0 :: _        => true
  | _                    => false

/-- No arriving byte and no drainer step falls inside the next operation. -/
def State.quiet (s : State) : Bool :=
  match s.agenda with
  | .arrive _ _ _ _ :: _ => false
  | .drain _ :: _        => false
  | _                    => true

/-- One micro-step of the poll context has passed. -/
def State.ticked (s : State) : State :=
  match s.agenda with
  | .arrive (n + 1) b fe ovr :: es => { s with agenda := .arrive n b fe ovr :: es }
  | .drain (n + 1) :: es           => { s with agenda := .drain n :: es }
  | _                              => s

/-- An operation is in progress and its next micro-step can be taken. -/
def State.running (s : State) : Bool := !s.todo.isEmpty && !s.due && !s.held

end Sys2Proof.Machine
end

