-- ==== Sys2Proof/Machine/Flags.lean ====
section
/-! DEFINITION. The flags of the block (10_state.md R41): the sticky overflow flag, the idle tracker's flag and
the conditions the operations compute. There are no condition codes. -/

namespace Sys2Proof.Machine

/-- `ovf <- 1`: data was sacrificed (R26, R177). -/
def State.sacrificed (s : State) : State := { s with ovf := true }

/-- The clear of `TestAndClear(ovf)` (R66); the test is `s.ovf` in the same micro-step. -/
def State.ovfCleared (s : State) : State := { s with ovf := false }

/-- `TrackerReset()` (R140). -/
def State.trackerReset (s : State) : State := { s with idleCnt := 0, idleDone := false }

/-- The Idle Frame is due: threshold reached, line idle, not yet sent, no local frame open (R141). -/
def State.idleDue (s : State) (t : Bool) : Bool :=
  decide (s.cfg.idleThreshold ≤ s.idleCnt.toNat) && t && !s.idleDone && !s.encActive

/-- The sync pause is due: the counter has gone SYNC_INTERVAL on from `sync.ref` (R142). -/
def State.syncDue (s : State) (now : Nat) : Bool :=
  decide (s.cfg.syncInterval ≤ counterDiff s.cfg now s.syncRef)

/-- MGMT_SOFT_ORDER lets the Soft-Overflow report come before the management frame of this call: never under
`after`, a free value under `either` (R204, R240; log 7). -/
def State.softFirst (s : State) : Bool :=
  match s.cfg.mgmtSoftOrder with
  | .after  => false
  | .either => Config.softFirst s.draws

/-- The free value of `softFirst` has been drawn. -/
def State.drawn (s : State) : State :=
  match s.cfg.mgmtSoftOrder with
  | .after  => s
  | .either => { s with draws := s.draws + 1 }

end Sys2Proof.Machine
end

