-- ==== Sys2Proof/Machine/Wire.lean ====
section
/-! DEFINITION. Wire frames (30_encoding.md R82 to R87, R90): the byte sequence of a frame, the fixed management
frames, how a frame's bytes are read back, and what a consistent checksum is. The Frame Encoder and the relay
do not call the functions on whole frames; the statements compare the machine with them. -/

namespace Sys2Proof.Machine

/-! ## The fixed management frames -/

/-- A fixed management frame, `80 c 00 c`, for the sub-code c (R90). -/
def mgmtFrame (subCode : Byte) : List Byte := [0x80, subCode, 0x00, subCode]

/-- `SOFT_FRAME` (R90). -/
def softFrame : List Byte := mgmtFrame 0x04

/-- `MgmtFrame(u)`: the sub-code of a pseudo-frame code is its low four bits (R90, R92, R204). -/
def mgmtFrameOf (u : Byte) : List Byte := mgmtFrame (u &&& 0x0F)

/-! ## Encoding a frame -/

/-- The side-channel byte of a run: bit i is the top bit of the run's (i+1)-th byte (R84). -/
def sideByte : List Byte → Byte
  | []      => 0
  | q :: qs => (q >>> 7) ||| (sideByte qs <<< 1)

/-- The XOR of a list of bytes. -/
def xorAll (bs : List Byte) : Byte := bs.foldl (· ^^^ ·) 0

/-- The body bytes of one run: the clipped bytes, then the side-channel byte; nothing for an empty run (R83). -/
def runBody (q : List Byte) : List Byte :=
  match q with
  | [] => []
  | _  => q.map clip ++ [sideByte q]

/-- The first run of a payload: the bytes k = 0..6 (R83). -/
def firstRun (payload : List Byte) : List Byte := payload.take runLen

/-- The second run of a payload: the bytes from k = 7 on (R83). -/
def secondRun (payload : List Byte) : List Byte := payload.drop runLen

/-- The accumulator X of R85: the start byte, every unclipped payload byte, every side-channel byte. -/
def checksumX (start : Byte) (payload : List Byte) : Byte :=
  start ^^^ xorAll payload ^^^ sideByte (firstRun payload) ^^^ sideByte (secondRun payload)

/-- `EncodeFrame(a, p, P)`: the wire bytes of a frame of at most 12 payload bytes (R83, R124). -/
def encodeFrame (a : BitVec 3) (p : BitVec 4) (payload : List Byte) : List Byte :=
  startByte a p ::
    (runBody (firstRun payload) ++ runBody (secondRun payload) ++
      [clip (checksumX (startByte a p) payload)])

/-- `B(n)`: the body bytes before the checksum of a frame of n payload bytes (R86). -/
def bodyCount (n : Nat) : Nat := n + (n + runLen - 1) / runLen

/-! ## Reading a frame back -/

/-- The payload bytes of one run whose clipped bytes are `q` and whose side-channel byte is `sc` (R87). -/
def restoreRun (sc : Byte) : List Byte → List Byte
  | []      => []
  | q :: qs => (q ||| (sc <<< 7)) :: restoreRun (sc >>> 1) qs

/-- What the body bytes before the checksum carry: the payload, and the side-channel bytes as received. -/
structure FrameBody where
  payload : List Byte
  sides   : List Byte
  deriving DecidableEq, Repr

/-- Take apart the body bytes before the checksum, where their count is that of a legal frame (R87): with n payload
bytes, the first run and its side-channel byte stand at positions 0 on, the second at positions 8 on. -/
def splitBody (d : List Byte) : Option FrameBody :=
  match (List.range (payloadMax + 1)).find? (fun n => bodyCount n == d.length) with
  | none => none
  | some n =>
    let run0 := d.take (min runLen n)
    let side0 := (d.drop (min runLen n)).take 1
    let run1 := (d.drop (runLen + 1)).take (n - runLen)
    let side1 := (d.drop (runLen + 1 + (n - runLen))).take 1
    some ⟨restoreRun (side0.headD 0) run0 ++ restoreRun (side1.headD 0) run1, side0 ++ side1⟩

/-- The checksum byte of R87 for what was received: the start byte, the restored payload and the received
side-channel bytes. -/
def receivedChecksum (s : Byte) (f : FrameBody) : Byte := clip (s ^^^ xorAll f.payload ^^^ xorAll f.sides)

/-- Decode a frame: its address, protocol and payload (R87). None where the bytes are not a frame-start byte and
body bytes (R80), their count is no legal frame's, or the checksum is not consistent. -/
def decodeFrame : List Byte → Option (BitVec 3 × BitVec 4 × List Byte)
  | [] => none
  | s :: body =>
    match body.getLast? with
    | none => none
    | some c =>
      match splitBody body.dropLast with
      | none => none
      | some f =>
        if isStart s && body.all (fun b => !isStart b) && c == receivedChecksum s f then
          some (addr s, proto s, f.payload)
        else none

end Sys2Proof.Machine
end

