-- ==== Sys2Proof/Machine/Micro.lean ====
section
/-! DEFINITION. The micro-steps of the poll context (20_memory.md R62) and how an operation runs through them.
An operation is a list of micro-steps in `State.todo`; each micro-step is atomic. `run` takes them one after
another until none is left, and stops early, with the rest still in `todo`, where an arriving byte or a drainer
step falls (R61) or a Push holds (R11, R73). `step` takes up the rest. -/

namespace Sys2Proof.Machine

/-- Put micro-steps before what the operation still has to do. -/
def State.before (s : State) (ms : List Micro) : State := { s with todo := ms ++ s.todo }

/-- The pushes of a fixed frame: `EmitFixed(F)` (R204). -/
def emitFixed : List Byte → List Micro
  | []      => []
  | b :: bs => .startFrame b :: bs.map .push

/-! ## The Frame Encoder's and the Idle/Sync Manager's micro-steps -/

/-- The Push of `ENC_START` (R121). -/
def microPushStart (b : Byte) (s : State) : State :=
  { s.trackerReset.pushed b with encCsum := b, encHb := 0, encCnt := 0, encN := 0, encActive := true }

/-- The first Push of `ENC_SEND`; after the 7th byte of a run the side-channel byte is next (R122). -/
def microPushPayload (b : Byte) (s : State) : State :=
  let t : State := { s.pushed (clip b) with
    encHb := s.encHb ||| sideBit b s.encCnt, encCsum := s.encCsum ^^^ b,
    encCnt := s.encCnt + 1, encN := s.encN + 1 }
  if s.encCnt + 1 = runLen then t.before [.pushSide] else t

/-- The Push of a side-channel byte (R122, R123). -/
def microPushSide (s : State) : State :=
  { s.pushed (s.encHb.zeroExtend 8) with
    encCsum := s.encCsum ^^^ s.encHb.zeroExtend 8, encHb := 0, encCnt := 0 }

/-- The Push of the checksum byte (R123). -/
def microPushCheck (s : State) : State := { s.pushed (clip s.encCsum) with encActive := false }

/-- The Push of the Idle Frame (R141). -/
def microPushIdle (s : State) : State := { s.pushed idleByte with idleDone := true }

/-! ## The relay's micro-steps -/

/-- `tail <- inc(tail)` (R201). -/
def State.consumed (s : State) : State := { s with tail := s.inc s.tail }

/-- `h <- head`: the buffer is empty, or the unit at `tail` is next (R200 to R202). -/
def microReadHead (s : State) : State :=
  if s.tail = s.head then s.before [.testAndClear] else s.before [.readUnit s.head]

/-- `ForwardData(u, h)` begins: the unit ends at h, or the next cell tells (R205; `UnitEnds`, R58). -/
def forwardData (h : Nat) (u : Byte) (s : State) : State :=
  if s.inc s.tail = h then s.before [.takeStart h u true, .testAndClear]
  else s.before [.peekStart h u, .testAndClear]

/-- The classes of R93: the dispatch of R200 on the first cell `u` of the unit at `tail`. -/
def dispatchUnit (h : Nat) (u : Byte) (s : State) : Host.Outcome State Fault Refusal :=
  if u = idleByte then
    if s.inc s.tail = h then .next (s.before [.skipIdle]) else .next (s.before [.peekIdle h])
  else if isPseudo u then .next (s.before [.takePseudo u])
  else if isLegalStart u then .next (forwardData h u s)
  else .fault .bufferInvariant

/-- `u <- buf[tail]` (R200). -/
def microReadUnit (h : Nat) (s : State) : Host.Outcome State Fault Refusal := dispatchUnit h (s.cell s.tail) s

/-- The cell after a `0x80` at `tail`: a start byte makes the `0x80` an Idle unit (R203, R58). -/
def microPeekIdle (h : Nat) (s : State) : State :=
  if isStart (s.cell (s.inc s.tail)) then s.before [.skipIdle] else forwardData h idleByte s

/-- The Idle unit is consumed and the loop starts over (R203). -/
def microSkipIdle (s : State) : State := s.consumed.before [.readHead]

/-- The pseudo unit is consumed; its management frame and the test of `ovf` follow, in the order of
MGMT_SOFT_ORDER (R204). -/
def microTakePseudo (u : Byte) (s : State) : State :=
  if s.softFirst then s.consumed.drawn.before (.testAndClear :: emitFixed (mgmtFrameOf u))
  else s.consumed.drawn.before (emitFixed (mgmtFrameOf u) ++ [.testAndClear])

/-- The cell after a data unit's start byte: `UnitEnds(tail, h)` (R205, R58). -/
def microPeekStart (h : Nat) (u : Byte) (s : State) : State :=
  s.before [.takeStart h u (isStart (s.cell (s.inc s.tail)))]

/-- The start byte is consumed; its successor with the address incremented is pushed next (R205). -/
def microTakeStart (h : Nat) (u : Byte) (last : Bool) (s : State) : State :=
  if last then s.consumed.before [.startFrame (nextHop u)]
  else s.consumed.before [.startFrame (nextHop u), .readBody h (u ^^^ nextHop u)]

/-- `b <- buf[tail]` (R205): b ends the unit at h, or the next cell tells. -/
def microReadBody (h : Nat) (d : Byte) (s : State) : State :=
  if s.inc s.tail = h then s.before [.takeBody h d (s.cell s.tail) true]
  else s.before [.peekBody h d (s.cell s.tail)]

/-- The cell after a body cell: `UnitEnds(tail, h)` (R205, R58). -/
def microPeekBody (h : Nat) (d b : Byte) (s : State) : State :=
  s.before [.takeBody h d b (isStart (s.cell (s.inc s.tail)))]

/-- The body cell is consumed; it is pushed next, the last one repaired by the delta (R205, R206). -/
def microTakeBody (h : Nat) (d b : Byte) (last : Bool) (s : State) : State :=
  if last then s.consumed.before [.push (b ^^^ d)]
  else s.consumed.before [.push b, .readBody h d]

/-- `if TestAndClear(ovf) = 1: EmitFixed(SOFT_FRAME)` (R66, R202, R204, R207). -/
def microTestAndClear (s : State) : State :=
  if s.ovf then s.ovfCleared.before (emitFixed softFrame) else s

/-! ## Running an operation -/

/-- One micro-step, taken off `todo` already; it puts what follows it at the front of `todo`. -/
def microStep (m : Micro) (s : State) : Host.Outcome State Fault Refusal :=
  match m with
  | .readHead             => .next (microReadHead s)
  | .readUnit h           => microReadUnit h s
  | .peekIdle h           => .next (microPeekIdle h s)
  | .skipIdle             => .next (microSkipIdle s)
  | .takePseudo u         => .next (microTakePseudo u s)
  | .peekStart h u        => .next (microPeekStart h u s)
  | .takeStart h u last   => .next (microTakeStart h u last s)
  | .readBody h d         => .next (microReadBody h d s)
  | .peekBody h d b       => .next (microPeekBody h d b s)
  | .takeBody h d b last  => .next (microTakeBody h d b last s)
  | .testAndClear         => .next (microTestAndClear s)
  | .startFrame b         => .next (s.trackerReset.pushed b)
  | .push b               => .next (s.pushed b)
  | .pushStart b          => .next (microPushStart b s)
  | .pushPayload b        => .next (microPushPayload b s)
  | .pushSide             => .next (microPushSide s)
  | .pushCheck            => .next (microPushCheck s)
  | .pushIdle             => .next (microPushIdle s)

/-- Take at most `n` micro-steps of the operation in progress. -/
def run : Nat → State → Host.Outcome State Fault Refusal
  | 0, s => .next s
  | n + 1, s =>
    match s.todo with
    | [] => .next s
    | m :: rest =>
      if s.running then
        match microStep m { s with todo := rest } with
        | .next t    => run n t.ticked
        | .fault f   => .fault f
        | .refused r => .refused r
      else .next s

/-- More micro-steps than one call of any operation takes: four for each cell of the buffer, and those of a
unit's start byte and a Soft-Overflow report (log 5). -/
def runLimit (c : Config) : Nat := 4 * c.rbSize + 16

/-- Go on with the operation in progress. -/
def resume (s : State) : Host.Outcome State Fault Refusal := run (runLimit s.cfg) s

/-- Begin an operation of the poll context. -/
def begin (ms : List Micro) (s : State) : Host.Outcome State Fault Refusal := resume { s with todo := ms }

end Sys2Proof.Machine
end

