-- ==== Sys2Proof/Machine/Encoder.lean ====
section
/-! DEFINITION. The Frame Encoder (40_encoder.md): START, SEND, END. -/

namespace Sys2Proof.Machine

/-- START p: `ENC_START` (R121). A frame in progress is restarted, not faulted. -/
def execStart (p : BitVec 4) (s : State) : Host.Outcome State Fault Refusal :=
  begin [.pushStart (startByte localAddr p)] s

/-- SEND b: `ENC_SEND` (R122). -/
def execSend (b : Byte) (s : State) : Host.Outcome State Fault Refusal :=
  if s.encActive = false then .fault (.encNotStarted .send)
  else if s.encN = payloadMax then .fault .encPayloadTooLong
  else begin [.pushPayload b] s

/-- END: `ENC_END` (R123). -/
def execEndFrame (s : State) : Host.Outcome State Fault Refusal :=
  if s.encActive = false then .fault (.encNotStarted .endFrame)
  else if s.encCnt ≠ 0 then begin [.pushSide, .pushCheck] s
  else begin [.pushCheck] s

end Sys2Proof.Machine
end

