-- ==== Sys2Proof/Machine/IdleSync.lean ====
section
/-! DEFINITION. The Idle/Sync Manager (41_idle_sync.md): TICK, SYNC. -/

namespace Sys2Proof.Machine

/-- One idle-tracker period has elapsed (R141). -/
def State.idleTicked (s : State) : State := { s with idleCnt := satInc s.idleCnt }

/-- TICK t: `IDLE_TICK` (R141). -/
def execTick (t : Bool) (s : State) : Host.Outcome State Fault Refusal :=
  if s.idleTicked.idleDue t then begin [.pushIdle] s.idleTicked else .next s.idleTicked

/-- SYNC now: `SYNC_POLL` (R142). -/
def execSync (now : Nat) (s : State) : Host.Outcome State Fault Refusal :=
  if s.encActive then .fault .pauseDuringFrame
  else if s.syncDue (counterValue s.cfg now) then
    .next { s.pushedGap with syncRef := counterValue s.cfg now }
  else .next s

end Sys2Proof.Machine
end

