-- ==== Sys2Proof/Machine/Receive.lean ====
section
/-! DEFINITION. The Reception State Machine (42_receive.md): RX, RX.OVR, RX.FE, RX.FE.OVR. One receive step is
one atomic function of the state (R61, R160); it pushes nothing and cannot fault. -/

namespace Sys2Proof.Machine

/-- `Abandon()` (R161). -/
def abandon (s : State) : State := { s with wr := s.head, mode := .discard }

/-- Write a one-cell pseudo-frame at `head` and publish it (R162, R163, R167, R172). -/
def publishCode (code : Byte) (s : State) : State :=
  { s.setCell s.head code with head := s.inc s.head, wr := s.inc s.head }

/-- Write a frame-start byte at `head` as the new open frame (R163, R172, R173). -/
def openFrame (b : Byte) (s : State) : State :=
  { s.setCell s.head b with wr := s.inc s.head, mode := .opened }

/-- `Inject(code)` (R162). -/
def inject (code : Byte) (s : State) : State :=
  if s.inc s.head ≠ s.tail then publishCode code s else s.sacrificed

/-- A start byte that has a cell: the Chain-Too-Long code in its place where its address is reserved (R163, R172). -/
def placeStart (b : Byte) (s : State) : State :=
  if addr b = reservedAddr then publishCode rbCtl s else openFrame b s

/-- `AdmitStart(s)` (R163). -/
def admitStart (b : Byte) (s : State) : State :=
  if s.inc s.head = s.tail then s.sacrificed else placeStart b s

/-- `FramingError()` (R164). -/
def framingError (s : State) : State := inject rbMal (abandon s)

/-- `Overrun(b)` (R165). -/
def overrun (b : Byte) (s : State) : State :=
  if isStart b then admitStart b (inject rbHovf (abandon s)) else inject rbHovf (abandon s)

/-- `BodyAppend(b)` (R166). -/
def bodyAppend (b : Byte) (s : State) : State := { s.setCell s.wr b with wr := s.inc s.wr }

/-- `BodyOversize()` (R167). -/
def bodyOversize (s : State) : State := { publishCode rbMal s with mode := .discard }

/-- `BodyEvict()` (R168). -/
def bodyEvict (s : State) : State := (abandon s).sacrificed

/-- `StartRoom(s)` (R172). -/
def startRoom (b : Byte) (s : State) : State := placeStart b s

/-- The code that replaces an oversized frame closed by the start byte `b` (R173). -/
def oversizeCode (b : Byte) : Byte := if addr b = reservedAddr then rbCtl else rbMal

/-- Case (a) of `StartNoRoom`: overwrite the just-closed frame in place with its code (R173). -/
def replaceOnly (b : Byte) (s : State) : State :=
  { s.setCell s.tail (oversizeCode b) with head := s.inc s.tail, wr := s.inc s.tail }

/-- `StartNoRoom(s, old_head)` (R173). -/
def startNoRoom (b : Byte) (oldHead : Nat) (s : State) : State :=
  if oldHead = s.tail then
    if addr b ≠ reservedAddr ∧ s.inc (replaceOnly b s).head ≠ s.tail then openFrame b (replaceOnly b s)
    else replaceOnly b s
  else s.sacrificed

/-- The first step of `StartWhileOpen`: the open frame becomes a closed unit (R171). -/
def closeOpen (s : State) : State := { s with head := s.wr, mode := .discard }

/-- `StartWhileOpen(s)` (R171). -/
def startWhileOpen (b : Byte) (s : State) : State :=
  if (closeOpen s).room then startRoom b (closeOpen s) else startNoRoom b s.head (closeOpen s)

/-- A body byte in an open frame: appended, or the frame judged oversized, or evicted (R160). -/
def bodyWhileOpen (b : Byte) (s : State) : State :=
  if s.room then bodyAppend b s
  else if s.tail = s.head then bodyOversize s
  else bodyEvict s

/-- `RX_BYTE b, fe, ovr`: one receive step, the dispatch of R160. -/
def rxByte (b : Byte) (fe ovr : Bool) (s : State) : State :=
  if fe then framingError s
  else if ovr then overrun b s
  else
    match isStart b, s.mode with
    | false, .opened  => bodyWhileOpen b s
    | false, .discard => s
    | true,  .discard => admitStart b s
    | true,  .opened  => startWhileOpen b s

/-- The cells that `inject` writes (R162). -/
def injectStores (s : State) : List Nat := if s.inc s.head ≠ s.tail then [s.head] else []

/-- The cells that `admitStart` writes (R163). -/
def admitStores (s : State) : List Nat := if s.inc s.head = s.tail then [] else [s.head]

/-- The cells that `startNoRoom` writes (R173). -/
def noRoomStores (b : Byte) (oldHead : Nat) (s : State) : List Nat :=
  if oldHead = s.tail then
    if addr b ≠ reservedAddr ∧ s.inc (replaceOnly b s).head ≠ s.tail then [s.tail, (replaceOnly b s).head]
    else [s.tail]
  else []

/-- The cells one receive step writes, in order: at most two (R267), each `head`, `wr` or, in R173 case (a),
`tail` and the cell after it. -/
def rxStores (b : Byte) (fe ovr : Bool) (s : State) : List Nat :=
  if fe then injectStores (abandon s)
  else if ovr then
    injectStores (abandon s) ++ if isStart b then admitStores (inject rbHovf (abandon s)) else []
  else
    match isStart b, s.mode with
    | false, .opened  => if s.room then [s.wr] else if s.tail = s.head then [s.head] else []
    | false, .discard => []
    | true,  .discard => admitStores s
    | true,  .opened  =>
      if (closeOpen s).room then [(closeOpen s).head] else noRoomStores b s.head (closeOpen s)

/-- RX b (R160). -/
def execRx (b : Byte) (s : State) : Host.Outcome State Fault Refusal := .next (rxByte b false false s)

/-- RX.OVR b (R160, R165). -/
def execRxOvr (b : Byte) (s : State) : Host.Outcome State Fault Refusal := .next (rxByte b false true s)

/-- RX.FE b (R160, R164). -/
def execRxFe (b : Byte) (s : State) : Host.Outcome State Fault Refusal := .next (rxByte b true false s)

/-- RX.FE.OVR b (R160, R164): the framing-error row, `ovr` ignored. -/
def execRxFeOvr (b : Byte) (s : State) : Host.Outcome State Fault Refusal := .next (rxByte b true true s)

end Sys2Proof.Machine
end

