-- ==== Sys2Proof/Machine/Relay.lean ====
section
/-! DEFINITION. The Relay/Forwarder (43_relay.md): POLL. -/

namespace Sys2Proof.Machine

/-- POLL: `RELAY_POLL` (R200). -/
def execPoll (s : State) : Host.Outcome State Fault Refusal :=
  if s.encActive then .fault .relayDuringFrame else begin [.readHead] s

end Sys2Proof.Machine
end

