-- ==== Sys2Proof/Machine/Reset.lean ====
section
/-! DEFINITION. RESET (70_reset_and_hazards.md R260, R263). -/

namespace Sys2Proof.Machine

/-- RESET: every state element of the block but the cells of `buf` at its value after reset; RESET writes no cell
(R260; log 3). The symbols already pushed stay in the outgoing stream and queue (R263), and the parameters, the
schedule and the free-value counter are not the block's state. -/
def execReset (s : State) : Host.Outcome State Fault Refusal :=
  .next { State.resetWith s.cfg s.buf with
    out := s.out, queued := s.queued, agenda := s.agenda, draws := s.draws }

end Sys2Proof.Machine
end

