-- ==== Sys2Proof/Machine/Dispatch.lean ====
section
/-! DEFINITION. One arm per operation, in the opcode table's order; each calls its meaning. -/

namespace Sys2Proof.Machine

def exec (i : Instr) (s : State) : Host.Outcome State Fault Refusal :=
  match i with
  | .start p => Sys2Proof.Machine.execStart p s
  | .send b => Sys2Proof.Machine.execSend b s
  | .endFrame => Sys2Proof.Machine.execEndFrame s
  | .rx b => Sys2Proof.Machine.execRx b s
  | .rxOvr b => Sys2Proof.Machine.execRxOvr b s
  | .rxFe b => Sys2Proof.Machine.execRxFe b s
  | .rxFeOvr b => Sys2Proof.Machine.execRxFeOvr b s
  | .poll => Sys2Proof.Machine.execPoll s
  | .tick t => Sys2Proof.Machine.execTick t s
  | .sync now => Sys2Proof.Machine.execSync now s
  | .reset => Sys2Proof.Machine.execReset s

end Sys2Proof.Machine
end

