-- ==== Sys2Proof/WellFormed.lean ====
section
/-! DEFINITION. Which instructions are well formed (30_encoding.md R95). The types of `Instr` already bound
every operand but one: the `now` of SYNC is a W-bit value, and W is a parameter. -/

namespace Sys2Proof

/-- `now` is an unsigned value of TIMER_WIDTH bits (R95); every value of the other operands is legal. -/
def Instr.wellFormed (c : Config) : Instr → Bool
  | .start _   => true
  | .send _    => true
  | .endFrame  => true
  | .rx _      => true
  | .rxOvr _   => true
  | .rxFe _    => true
  | .rxFeOvr _ => true
  | .poll      => true
  | .tick _    => true
  | .sync now  => decide (now < 2 ^ c.timerWidth)
  | .reset     => true

end Sys2Proof
end

