-- ==== Sys2Proof/Decode.lean ====
section
/-! DEFINITION. The decoder from a command to an instruction, and the encoder back (30_encoding.md R94 to R96,
spec/opcode_table.json). The unit of decoding is the 16-bit command word: the block has no multi-byte value
and so no byte order (20_memory.md R52). -/

namespace Sys2Proof

/-- One row of the opcode table: the words `w` with `w & mask = pattern`, and how their operands are taken. -/
structure OpRow where
  mask    : CmdWord
  pattern : CmdWord
  build   : CmdWord → Nat → Instr

/-- The operand `cw[3:0]`: a protocol (R95). -/
def fieldP (w : CmdWord) : BitVec 4 := w.extractLsb' 0 4

/-- The operand `cw[7:0]`: a payload byte or a received byte (R95). -/
def fieldB (w : CmdWord) : Byte := w.extractLsb' 0 8

/-- The operand `cw[0]`: the tx_idle flag (R95). -/
def fieldT (w : CmdWord) : Bool := w[0]

/-- The opcode table, row by row (R94). The mask covers the op field, the must-be-0 bits and, for the four
RX forms, the flags fe = `cw[9]` and ovr = `cw[8]`. -/
def opRows : List OpRow := [
  ⟨0xFFF0, 0x1000, fun w _ => .start (fieldP w)⟩,
  ⟨0xFF00, 0x2000, fun w _ => .send (fieldB w)⟩,
  ⟨0xFFFF, 0x3000, fun _ _ => .endFrame⟩,
  ⟨0xFF00, 0x4000, fun w _ => .rx (fieldB w)⟩,
  ⟨0xFF00, 0x4100, fun w _ => .rxOvr (fieldB w)⟩,
  ⟨0xFF00, 0x4200, fun w _ => .rxFe (fieldB w)⟩,
  ⟨0xFF00, 0x4300, fun w _ => .rxFeOvr (fieldB w)⟩,
  ⟨0xFFFF, 0x5000, fun _ _ => .poll⟩,
  ⟨0xFFFE, 0x6000, fun w _ => .tick (fieldT w)⟩,
  ⟨0xFFFF, 0x7000, fun _ now => .sync now⟩,
  ⟨0xFFFF, 0x8000, fun _ _ => .reset⟩]

/-- The word lies in the row. -/
def OpRow.holds (r : OpRow) (w : CmdWord) : Bool := w &&& r.mask == r.pattern

/-- Why a command word spells no operation (R96). -/
inductive DecodeError where
  /-- The op field is 0x0 or 0x9..0xF. -/
  | reservedOp
  /-- The op field names an operation, and a must-be-0 bit is 1. -/
  | mustBeZero
  deriving DecidableEq, Repr

/-- The op field `cw[15:12]` (R94). -/
def opField (w : CmdWord) : Nat := (w.extractLsb' 12 4).toNat

/-- The name of the rejection of a word that lies in no row (R96). -/
def rejection (w : CmdWord) : DecodeError :=
  if opField w = 0 ∨ 9 ≤ opField w then .reservedOp else .mustBeZero

/-- The operation a command spells, or why it spells none. -/
def decode (c : Command) : Except DecodeError Instr :=
  match opRows.find? (fun r => r.holds c.word) with
  | some r => .ok (r.build c.word c.now)
  | none   => .error (rejection c.word)

/-- The command of an operation (R94, R97). -/
def encode : Instr → Command
  | .start p   => ⟨0x1000 ||| p.zeroExtend 16, 0⟩
  | .send b    => ⟨0x2000 ||| b.zeroExtend 16, 0⟩
  | .endFrame  => ⟨0x3000, 0⟩
  | .rx b      => ⟨0x4000 ||| b.zeroExtend 16, 0⟩
  | .rxOvr b   => ⟨0x4100 ||| b.zeroExtend 16, 0⟩
  | .rxFe b    => ⟨0x4200 ||| b.zeroExtend 16, 0⟩
  | .rxFeOvr b => ⟨0x4300 ||| b.zeroExtend 16, 0⟩
  | .poll      => ⟨0x5000, 0⟩
  | .tick t    => ⟨0x6000 ||| (BitVec.ofBool t).zeroExtend 16, 0⟩
  | .sync now  => ⟨0x7000, now⟩
  | .reset     => ⟨0x8000, 0⟩

/-- A command laid out as one number (log 9): the command word is bits 15..0, the `now` beside it counts on
from bit 16. -/
def commandOfBits (nbits w : Nat) : Command where
  word := BitVec.ofNat 16 (w % 2 ^ nbits)
  now  := w % 2 ^ nbits / 2 ^ 16

/-- The instruction the decoder reads from the `nbits` bits of `w`. -/
def decodeTableWord (nbits w : Nat) : Option Instr :=
  match decode (commandOfBits nbits w) with
  | .ok i    => some i
  | .error _ => none

end Sys2Proof
end

