-- ==== Sys2Proof/Machine/Sched.lean ====
section
/-! DEFINITION. What the block takes from its schedule (20_memory.md R60, R61; log 4): the interrupt's receive
step, and the fetch of the next command. -/

namespace Sys2Proof.Machine

/-- The next instruction, from a command the outer loop issued (R94, R96). -/
def fetch (c : Command) : Option Instr :=
  match decode c with
  | .ok i    => some i
  | .error _ => none

/-- The interrupt: one receive step for the byte that arrived (R237, R239). -/
def interrupt (b : Byte) (fe ovr : Bool) (s : State) : Host.Outcome State Fault Refusal :=
  .next (rxByte b fe ovr s)

/-- The state with the command placed as the next thing the block takes, no operation being in progress. -/
def State.issuing (s : State) (c : Command) : State := { s with agenda := .issue c :: s.agenda, todo := [] }

end Sys2Proof.Machine
end

