-- ==== Sys2Proof/Machine/Step.lean ====
section
/-! DEFINITION. One step of the block (20_memory.md R60 to R62; log 4). An operation in progress whose next
micro-step can be taken goes on. Otherwise the next event of the schedule happens: a receive step, a step of the
drainer, or, between operations, a command of the outer loop. Where nothing can happen (nothing is scheduled, or
a Push holds and only a command is) the state stays as it is (log 6). -/

namespace Sys2Proof.Machine

def step (s : State) : Host.Outcome State Fault Refusal :=
  if s.running then resume s
  else
    match s.agenda with
    | [] => .next s
    | .arrive _ b fe ovr :: es => interrupt b fe ovr { s with agenda := es }
    | .drain _ :: es => .next { s with agenda := es }.drained
    | .issue c :: es =>
      if s.todo.isEmpty then
        match fetch c with
        | some i => exec i { s with agenda := es }
        | none   => .refused .reservedCommand
      else .next s

/-- The state whose very next step runs the instruction whose bits are `w` (log 4, log 9). -/
def State.withFetchWord (s : State) (nbits w : Nat) : State := s.issuing (commandOfBits nbits w)

end Sys2Proof.Machine
end

