-- ==== Sys2Proof/Machine/Chain.lean ====
section
/-! DEFINITION. Boards in a chain (60_exceptions.md R245): what one board pushes is what the next one upstream
receives. Nothing else is shared between boards. -/

namespace Sys2Proof.Machine

/-- The bytes of a symbol stream: the `GAP` symbols carry no data and are no input (R143, R245). -/
def streamBytes : List Symbol → List Byte
  | []           => []
  | .byte b :: o => b :: streamBytes o
  | .gap :: o    => streamBytes o

/-- The upstream board's input for the downstream board's symbol stream, on a line without errors:
`fe = 0`, `ovr = 0` (R245). When the k-th byte arrives is a free choice of the schedule
(93_implementation_defined.md row 16): `wait k` says after how many micro-steps of the upstream board's poll
context. That the line makes no errors, and that each board has one schedule of its own, is the model's choice
(DESIGN CHOICE, log 16). -/
def linkInput (wait : Nat → Nat) (o : List Symbol) : List Event :=
  (streamBytes o).zipIdx.map fun (b, k) => .arrive (wait k) b false false

/-- The bytes of the stream that the drainer has put on the line: all but the `queued` newest, in FIFO order
(R73). -/
def State.lineBytes (s : State) : List Byte :=
  (streamBytes s.out).take ((streamBytes s.out).length - s.queued)

end Sys2Proof.Machine
end

