-- ==== Sys2Proof/Machine/Units.lean ====
section
/-! DEFINITION. The closed units of the buffer and what one relay call does with them, as functions on whole
lists of cells (20_memory.md R57, R58; 30_encoding.md R93; 43_relay.md R202 to R206). POLL does not call them:
it works cell by cell in micro-steps, and the statements compare the two. -/

namespace Sys2Proof.Machine

/-- The `n` cells from index `i` on. -/
def State.cellsFrom (s : State) : Nat → Nat → List Byte
  | 0, _     => []
  | n + 1, i => s.cell i :: s.cellsFrom n (s.inc i)

/-- The closed region, from `tail` up to but not including `head` (R57). -/
def State.closedCells (s : State) : List Byte := s.cellsFrom (s.span s.tail s.head) s.tail

/-- The open region, from `head` up to but not including `wr` (R57). -/
def State.openCells (s : State) : List Byte := s.cellsFrom (s.span s.head s.wr) s.head

/-- The first cell of the list, if any, begins a unit (R58). -/
def startsUnit : List Byte → Bool
  | []     => true
  | c :: _ => isStart c

/-- What follows the leading Idle units: a `0x80` that another unit, or the end, follows at once (R203). -/
def dropIdle : List Byte → List Byte
  | []      => []
  | u :: cs => if u = idleByte ∧ startsUnit cs = true then dropIdle cs else u :: cs

/-- The body of a data unit as it is forwarded: verbatim but for its last cell, which takes the delta (R206). -/
def repairLast (d : Byte) : List Byte → List Byte
  | []          => []
  | [c]         => [c ^^^ d]
  | b :: c :: l => b :: repairLast d (c :: l)

/-- The bytes that forward the data unit `u :: body` (R205, R206). -/
def forwardBytes (u : Byte) (body : List Byte) : List Byte :=
  nextHop u :: repairLast (u ^^^ nextHop u) body

/-- The body cells that belong to the unit whose first cell stands before the list (R58). -/
def unitBody (cs : List Byte) : List Byte := cs.takeWhile fun c => !isStart c

/-- The frame one call emits for the closed cells after the leading Idle units: none, a management frame, or a
forwarded frame (R202, R204, R205). -/
def relayBytes : List Byte → List Byte
  | []      => []
  | u :: cs => if isPseudo u then mgmtFrameOf u else forwardBytes u (unitBody cs)

/-- How many cells that frame's unit takes. -/
def relayTakes : List Byte → Nat
  | []      => 0
  | u :: cs => if isPseudo u then 1 else 1 + (unitBody cs).length

end Sys2Proof.Machine
end

