-- ==== Sys2Proof/Safety.lean ====
section
/-! DEFINITION. What a good state and a good run are: the invariants of 10_state.md R28, the legal values of
R40's table, and the position of an operation in progress. Every clause is decidable. -/

namespace Sys2Proof.Machine

/-- The cell `i` satisfies `p`. -/
def State.cellIs (s : State) (i : Nat) (p : Byte → Bool) : Bool := p (s.cell i)

/-- A body byte (R12, R80). -/
def isBody (b : Byte) : Bool := !isStart b

/-- The values a rule ever writes to a cell (R40, R92). A cell that no rule has written can hold any (R22). -/
def isCellValue (b : Byte) : Bool := isBody b || isLegalStart b || isPseudo b

/-! ## The receive state (R28) -/

/-- Every index names a cell (R23 to R25). -/
abbrev IndexOk (s : State) : Prop :=
  s.head < s.cfg.rbSize ∧ s.wr < s.cfg.rbSize ∧ s.tail < s.cfg.rbSize

/-- The memory is in its canonical form, and lists only cells that exist (R22). -/
abbrev MemOk (s : State) : Prop := s.buf.fits s.cfg

/-- R28 item 1. -/
abbrev DiscardOk (s : State) : Prop := s.mode = .discard → s.wr = s.head

/-- R28 item 2. -/
abbrev OpenOk (s : State) : Prop :=
  s.mode = .opened → s.wr ≠ s.head ∧ s.cellIs s.head isLegalStart = true ∧
    ∀ k, k < s.span s.head s.wr → k ≠ 0 → s.cellIs (s.head + k) isBody = true

/-- R28 items 3 and 4: from `tail`, `head` comes before or at `wr`. -/
abbrev OrderOk (s : State) : Prop := s.span s.tail s.head ≤ s.span s.tail s.wr

/-- R28 item 5 but for its first cell: every closed cell holds a value that a rule writes (R92), and a pseudo-frame
is one cell long. -/
abbrev ClosedOk (s : State) : Prop :=
  ∀ k, k < s.span s.tail s.head → s.cellIs (s.tail + k) isCellValue = true ∧
    (s.cellIs (s.tail + k) isPseudo = true → k + 1 < s.span s.tail s.head →
      s.cellIs (s.tail + k + 1) isStart = true)

/-- `tail` stands at the start of a unit, or at `head` (R28 item 5). It does so except while the relay is inside
a data unit (log 13). -/
abbrev AtUnit (s : State) : Prop := s.tail = s.head ∨ s.cellIs s.tail isStart = true

/-- The invariants of the receive state (R28, R40), but for the first cell of the closed region, which is `AtUnit`
(log 13). -/
abbrev BufferOk (s : State) : Prop :=
  s.cfg.Legal ∧ IndexOk s ∧ MemOk s ∧ DiscardOk s ∧ OpenOk s ∧ OrderOk s ∧ ClosedOk s

/-! ## The poll context -/

/-- The encoder's legal values (R31 to R34). -/
abbrev EncOk (s : State) : Prop :=
  s.encHb.toNat < 2 ^ s.encCnt ∧ s.encCnt ≤ runLen ∧ s.encN ≤ payloadMax

/-- `enc.cnt = enc.n mod 7` while a frame is open, and `enc.cnt <= 6` (R33, R34; log 15). -/
abbrev EncRest (s : State) : Prop := s.encCnt < runLen ∧ (s.encActive = true → s.encCnt = s.encN % runLen)

/-- The values of the Idle/Sync Manager and of the outgoing queue (R37, R73). -/
abbrev OutOk (s : State) : Prop :=
  s.syncRef < 2 ^ s.cfg.timerWidth ∧ s.queued ≤ (streamBytes s.out).length ∧ s.roomFor 0 = true

/-- A head snapshot of the call in progress: not past `head`, and at the start of a unit or at `head` (R201). -/
abbrev Snapshot (s : State) (h : Nat) : Prop :=
  h < s.cfg.rbSize ∧ s.span s.tail h ≤ s.span s.tail s.head ∧ (h = s.head ∨ s.cellIs h isStart = true)

/-- The cell at `tail` holds `u` and lies before the snapshot. -/
abbrev AtCell (s : State) (h : Nat) (u : Byte) : Prop :=
  Snapshot s h ∧ s.tail ≠ h ∧ s.cell s.tail = u

/-- `UnitEnds(tail, h)` (R58). -/
def unitEnds (s : State) (h : Nat) : Bool := s.inc s.tail == h || s.cellIs (s.inc s.tail) isStart

/-- A start-byte delta: bit 7 is 0 (R205). -/
abbrev DeltaOk (d : Byte) : Prop := isStart d = false

/-- What follows the leading pushes of the relay. -/
def afterPushes : List Micro → List Micro
  | .startFrame _ :: ms => afterPushes ms
  | .push _ :: ms       => afterPushes ms
  | ms                  => ms

/-- The relay's position and its call-local values agree with the buffer (R200, R201, R205). A management frame
of four pushes may stand behind the test of `ovf` (R204). -/
def relayOk (s : State) : Bool :=
  match afterPushes s.todo with
  | []                               => decide (AtUnit s)
  | [.readHead]                      => decide (AtUnit s)
  | [.readUnit h]                    => decide (Snapshot s h ∧ s.tail ≠ h ∧ AtUnit s)
  | [.peekIdle h]                    => decide (AtCell s h idleByte ∧ s.inc s.tail ≠ h)
  | [.skipIdle]                      => decide (AtCell s s.head idleByte ∧ unitEnds s s.head = true)
  | [.takePseudo u]                  => decide (AtCell s s.head u ∧ isPseudo u = true)
  | [.peekStart h u, .testAndClear]  =>
    decide (AtCell s h u ∧ isLegalStart u = true ∧ s.inc s.tail ≠ h)
  | [.takeStart h u last, .testAndClear] =>
    decide (AtCell s h u ∧ isLegalStart u = true ∧ last = unitEnds s h)
  | [.readBody h d, .testAndClear]   =>
    decide (Snapshot s h ∧ s.tail ≠ h ∧ s.cellIs s.tail isBody = true ∧ DeltaOk d)
  | [.peekBody h d b, .testAndClear] =>
    decide (AtCell s h b ∧ isBody b = true ∧ s.inc s.tail ≠ h ∧ DeltaOk d)
  | [.takeBody h d b last, .testAndClear] =>
    decide (AtCell s h b ∧ isBody b = true ∧ last = unitEnds s h ∧ DeltaOk d)
  | .testAndClear :: ms              => decide (AtUnit s ∧ ms.length ≤ 4) && (afterPushes ms).isEmpty
  | _                                => false

/-- The operation in progress agrees with the state it works on; a relay call has at most two fixed frames of four
pushes before it (R204). -/
def todoOk (s : State) : Bool :=
  match s.todo with
  | []                      => decide (EncRest s ∧ AtUnit s)
  | [.pushStart b]          => decide (EncRest s ∧ AtUnit s) && isLegalStart b
  | [.pushPayload _]        => decide (EncRest s ∧ AtUnit s ∧ s.encActive = true ∧ s.encN < payloadMax)
  | [.pushSide]             =>
    decide (AtUnit s ∧ s.encActive = true ∧ s.encCnt = runLen ∧ s.encN % runLen = 0)
  | [.pushSide, .pushCheck] => decide (EncRest s ∧ AtUnit s ∧ s.encActive = true ∧ s.encCnt ≠ 0)
  | [.pushCheck]            => decide (AtUnit s ∧ s.encActive = true ∧ s.encCnt = 0)
  | [.pushIdle]             => decide (EncRest s ∧ AtUnit s ∧ s.encActive = false)
  | ms                      => decide (EncRest s ∧ s.encActive = false ∧ ms.length ≤ 8) && relayOk s

/-- The invariant of the block: it holds after reset, and every step keeps it. -/
abbrev Inv (s : State) : Prop := BufferOk s ∧ EncOk s ∧ OutOk s ∧ todoOk s = true

/-! ## Runs -/

/-- No operation is in progress, and no arriving byte or drainer step falls inside the next one. -/
abbrev Ready (s : State) : Prop := s.todo = [] ∧ s.quiet = true

/-- The operation that delivers a byte with its line-status flags (R160). -/
def rxInstr (b : Byte) (fe ovr : Bool) : Instr :=
  match fe, ovr with
  | false, false => .rx b
  | false, true  => .rxOvr b
  | true, false  => .rxFe b
  | true, true   => .rxFeOvr b

/-- An operation of the interrupt context (R94). -/
def isReceive : Instr → Bool
  | .rx _ | .rxOvr _ | .rxFe _ | .rxFeOvr _ => true
  | .start _ | .send _ | .endFrame | .poll | .tick _ | .sync _ | .reset => false

/-- An operation of the Frame Encoder or the Idle/Sync Manager (R126, R145). -/
def isOriginating : Instr → Bool
  | .start _ | .send _ | .endFrame | .tick _ | .sync _ => true
  | .rx _ | .rxOvr _ | .rxFe _ | .rxFeOvr _ | .poll | .reset => false

/-- Perform operations one after another, each whole, as the outer loop issues them (R60, R272). -/
def execAll : List Instr → State → Host.Outcome State Fault Refusal
  | [], s => .next s
  | i :: is, s =>
    match exec i s with
    | .next t    => execAll is t
    | .fault f   => .fault f
    | .refused r => .refused r

/-- Only arriving bytes and drainer steps are scheduled: no further command. -/
def onlyAsync (es : List Event) : Bool :=
  es.all fun e => match e with
    | .issue _        => false
    | .arrive _ _ _ _ => true
    | .drain _        => true

/-- The run has ended: every command has completed, with no Push holding (R272). -/
abbrev Ended (s : State) : Prop := s.todo = [] ∧ s.agenda = []

/-- The symbols that push these bytes (R15). -/
def symbols (bs : List Byte) : List Symbol := bs.map .byte

/-- What a board that has just been reset, its cells at the contents `m`, pushes when it receives `bytes`, then an
Idle Frame that closes the last unit, and polls once (R245, R266). That all the bytes have arrived before the one
POLL is the model's choice of schedule (DESIGN CHOICE, log 16). -/
def boardOutput (c : Config) (m : Memory) (bytes : List Byte) : List Byte :=
  match execAll (rxOps (bytes ++ [idleByte]) ++ [.poll]) (State.resetWith c m) with
  | .next t    => streamBytes t.out
  | .fault _   => []
  | .refused _ => []

/-- The same bytes after `k` boards of a chain, each with the parameters `c` and its own power-up contents
(R245, R246). -/
def chainOutput (c : Config) (ms : Nat → Memory) : Nat → List Byte → List Byte
  | 0, bytes     => bytes
  | k + 1, bytes => boardOutput c (ms k) (chainOutput c ms k bytes)

end Sys2Proof.Machine
end

