-- ==== Sys2Proof/Certificates/Slice0/Obligations.lean ====
section
/-! DEFINITION. The statements for the provers. Each docstring says which rule of the spec it formalises.
Results are stated for a block between operations (`Ready`): nothing in progress and no event scheduled inside
the operation, whose Pushes find free slots (`roomFor`); statements on preemption, on holding and on every step
stand beside them. -/

open Sys2Proof Sys2Proof.Machine

/-! ## Encoding -/

/-- Words written out from the encodings of R94 and R97 decode to their operations. -/
def Obligations.DecodeSampleWords : Prop :=
  decode ⟨0x1003, 0⟩ = .ok (.start 3) ∧
  decode ⟨0x20C2, 0⟩ = .ok (.send 0xC2) ∧
  decode ⟨0x3000, 0⟩ = .ok .endFrame ∧
  decode ⟨0x40A5, 0⟩ = .ok (.rx 0xA5) ∧
  decode ⟨0x4183, 0⟩ = .ok (.rxOvr 0x83) ∧
  decode ⟨0x4200, 0⟩ = .ok (.rxFe 0x00) ∧
  decode ⟨0x43FF, 0⟩ = .ok (.rxFeOvr 0xFF) ∧
  decode ⟨0x5000, 0⟩ = .ok .poll ∧
  decode ⟨0x6001, 0⟩ = .ok (.tick true) ∧
  decode ⟨0x7000, 0x1FFF⟩ = .ok (.sync 0x1FFF) ∧
  decode ⟨0x8000, 0⟩ = .ok .reset

/-- Decoding an encoded operation gives it back, at every value of every operand (R94, R95). -/
def Obligations.DecodeInvertsEncode : Prop :=
  ∀ i : Instr, decode (encode i) = .ok i

/-- A command word spells at most one operation, and that operation's encoding is the word (R94, R96): no bit
of an accepted word is dropped. -/
def Obligations.EncodeInvertsDecode : Prop :=
  ∀ (c : Command) (i : Instr), decode c = .ok i →
    (encode i).word = c.word ∧ (∀ now, i = .sync now → now = c.now)

/-- R96, R235: between operations, a command is refused exactly when its op field is 0x0 or 0x9..0xF or one of
its must-be-0 bits (R94's table, by op field) is 1; the refusal comes before any fault check. -/
def Obligations.ReservedCommandWordsAreRefused : Prop :=
  ∀ (s : State) (c : Command) (es : List Event),
    s.todo = [] → s.agenda = .issue c :: es →
    (step s = .refused .reservedCommand ↔
      let op : BitVec 4 := c.word.extractLsb' 12 4
      let zeros : CmdWord :=
        if op = 1 then 0x0FF0 else if op = 2 then 0x0F00 else if op = 4 then 0x0C00
        else if op = 6 then 0x0FFE else 0x0FFF
      op = 0 ∨ 9 ≤ op.toNat ∨ c.word &&& zeros ≠ 0)

/-- A step of a block between operations runs the operation that the next issued command decodes to, on the
state whose schedule goes on behind that command. -/
def Obligations.StepRunsTheDecodedCommand : Prop :=
  ∀ (s : State) (c : Command) (es : List Event) (i : Instr),
    s.todo = [] → s.agenda = .issue c :: es → decode c = .ok i →
    step s = exec i { s with agenda := es }

/-! ## Reset -/

/-- The state after reset meets the invariant, whatever legal values the parameters have and whatever the cells of
`buf` hold (R28, R261). -/
def Obligations.ResetStateMeetsInvariant : Prop :=
  ∀ (c : Config) (m : Memory), c.Legal → m.fits c → Inv (State.resetWith c m)

/-- R260: RESET puts every element of the block but the cells of `buf` at its reset value, from any state, and
pushes nothing. -/
def Obligations.ResetPutsBlockInPowerUpState : Prop :=
  ∀ s : State, ∃ t, exec .reset s = .next t ∧
    t.head = 0 ∧ t.wr = 0 ∧ t.tail = 0 ∧ t.ovf = false ∧ t.mode = .discard ∧
    t.encActive = false ∧ t.encCsum = 0 ∧ t.encHb = 0 ∧ t.encCnt = 0 ∧ t.encN = 0 ∧
    t.idleCnt = 0 ∧ t.idleDone = false ∧ t.syncRef = 0 ∧
    t.out = s.out

/-- The rest of the frame of RESET: it writes no cell of `buf` (R260's list of the state it writes), the parameters
stay, and the outgoing queue, the schedule and the free-value counter go on (R263). That the unspecified cells keep
their values is the model's choice (log 3), and so are its own fields (logs 1, 4, 7, 10). -/
def Obligations.ResetLeavesTheRest : Prop :=
  ∀ s t : State, exec .reset s = .next t →
    (∀ a, t.buf.read a = s.buf.read a) ∧ t.cfg = s.cfg ∧ t.queued = s.queued ∧ t.todo = [] ∧
    t.agenda = s.agenda ∧ t.draws = s.draws

/-! ## Frame Encoder -/

/-- R121: START p pushes `0x80 | p`, resets the tracker and restarts the encoder, also while a frame is open;
nothing else changes. -/
def Obligations.StartBeginsFrame : Prop :=
  ∀ (p : BitVec 4) (s : State), Ready s → s.roomFor 1 = true →
    let b : Byte := 0x80 ||| p.zeroExtend 8
    exec (.start p) s = .next { s with
      idleCnt := 0, idleDone := false,
      out := s.out ++ [.byte b], queued := s.queued + 1,
      encCsum := b, encHb := 0, encCnt := 0, encN := 0, encActive := true }

/-- R122: SEND b faults when no frame is open, and then on a 13th payload byte; else it pushes `b & 0x7F`, folds
the unclipped byte into the checksum and queues the top bit, and on the 7th byte of a run also pushes the
side-channel byte and starts a new run. Nothing else changes. -/
def Obligations.SendAddsPayloadByte : Prop :=
  ∀ (b : Byte) (s : State),
    (s.encActive = false → exec (.send b) s = .fault (.encNotStarted .send)) ∧
    (s.encActive = true → s.encN = 12 → exec (.send b) s = .fault .encPayloadTooLong) ∧
    (Ready s → s.encActive = true → s.encN ≠ 12 →
      let hb : BitVec 7 := s.encHb ||| ((BitVec.ofBool (b[7])).zeroExtend 7 <<< s.encCnt)
      (s.encCnt + 1 ≠ 7 → s.roomFor 1 = true →
        exec (.send b) s = .next { s with
          out := s.out ++ [.byte (b &&& 0x7F)], queued := s.queued + 1,
          encHb := hb, encCsum := s.encCsum ^^^ b, encCnt := s.encCnt + 1, encN := s.encN + 1 }) ∧
      (s.encCnt + 1 = 7 → s.roomFor 2 = true →
        exec (.send b) s = .next { s with
          out := s.out ++ [.byte (b &&& 0x7F), .byte (hb.zeroExtend 8)], queued := s.queued + 2,
          encHb := 0, encCsum := s.encCsum ^^^ b ^^^ hb.zeroExtend 8, encCnt := 0, encN := s.encN + 1 }))

/-- R123: END faults when no frame is open; else it pushes the side-channel byte of a pending run, if there is
one, and the checksum with its top bit cleared, and closes the frame. Nothing else changes. -/
def Obligations.EndFinishesFrame : Prop :=
  ∀ s : State,
    (s.encActive = false → exec .endFrame s = .fault (.encNotStarted .endFrame)) ∧
    (Ready s → s.encActive = true →
      (s.encCnt = 0 → s.roomFor 1 = true →
        exec .endFrame s = .next { s with
          out := s.out ++ [.byte (s.encCsum &&& 0x7F)], queued := s.queued + 1, encActive := false }) ∧
      (s.encCnt ≠ 0 → s.roomFor 2 = true →
        let x : Byte := s.encCsum ^^^ s.encHb.zeroExtend 8
        exec .endFrame s = .next { s with
          out := s.out ++ [.byte (s.encHb.zeroExtend 8), .byte (x &&& 0x7F)], queued := s.queued + 2,
          encHb := 0, encCnt := 0, encCsum := x, encActive := false }))

/-- R124: START p, SEND of each payload byte, END push exactly the wire frame of R83 to R85 for address 0, and
leave the encoder closed with no pending run. -/
def Obligations.FrameOpsPushTheWireFrame : Prop :=
  ∀ (p : BitVec 4) (payload : List Byte) (s : State),
    payload.length ≤ 12 → Ready s → s.roomFor (encodeFrame 0 p payload).length = true →
    ∃ t, execAll (frameOps p payload) s = .next t ∧
      t.out = s.out ++ symbols (encodeFrame 0 p payload) ∧
      t.encActive = false ∧ t.encHb = 0 ∧ t.encCnt = 0

/-- R125: SEND and END push body bytes only, in every state, completed or not. -/
def Obligations.EncoderPushesBodyBytesOnly : Prop :=
  ∀ (i : Instr) (s t : State), (i = .endFrame ∨ ∃ b, i = .send b) → exec i s = .next t →
    ∃ bs : List Byte, t.out = s.out ++ symbols bs ∧ ∀ b ∈ bs, b[7] = false

/-- R126, R145 and R59: no operation of the poll context but RESET writes `buf`, `head`, `wr` or `mode`, and none
but POLL writes `tail` or `ovf`. In every state, completed or not. -/
def Obligations.PollContextLeavesReceiveState : Prop :=
  ∀ (i : Instr) (s t : State), isReceive i = false → i ≠ .reset → exec i s = .next t →
    (∀ a, t.buf.read a = s.buf.read a) ∧ t.buf = s.buf ∧
    t.head = s.head ∧ t.wr = s.wr ∧ t.mode = s.mode ∧
    (i ≠ .poll → t.tail = s.tail ∧ t.ovf = s.ovf)

/-- R126, R145: the operations of the encoder and the idle/sync manager commute with every receive step, with
faults, holds and preemption included. -/
def Obligations.ReceiveStepCommutesWithOriginating : Prop :=
  ∀ (i : Instr) (b : Byte) (fe ovr : Bool) (s : State), isOriginating i = true →
    execAll [i, rxInstr b fe ovr] s = execAll [rxInstr b fe ovr, i] s

/-! ## Idle/Sync Manager -/

/-- R141: TICK t counts, saturating at 255, and pushes the lone `0x80` once the count has reached the threshold,
the line is idle, none was sent since the last real frame and no local frame is open. Nothing else changes. A tick
that pushes nothing needs no room in the outgoing queue. -/
def Obligations.TickCountsAndSendsIdleFrame : Prop :=
  ∀ (t : Bool) (s : State),
    let n := min (s.idleCnt.toNat + 1) 255
    let due : Prop := s.cfg.idleThreshold ≤ n ∧ t = true ∧ s.idleDone = false ∧ s.encActive = false
    (due → Ready s → s.roomFor 1 = true →
      exec (.tick t) s = .next { s with
        idleCnt := BitVec.ofNat 8 n, idleDone := true,
        out := s.out ++ [.byte 0x80], queued := s.queued + 1 }) ∧
    (¬ due → exec (.tick t) s = .next { s with idleCnt := BitVec.ofNat 8 n })

/-- R262, R36: after a tracker reset, k idle periods on an idle line send no Idle Frame before the threshold and
exactly one from it on, which finds room in the queue, and the count saturates. -/
def Obligations.IdleFrameSentOnceAtThreshold : Prop :=
  ∀ (k : Nat) (s : State), s.cfg.Legal → Ready s → (k < s.cfg.idleThreshold ∨ s.roomFor 1 = true) →
    s.idleCnt = 0 → s.idleDone = false → s.encActive = false →
    ∃ t, execAll (idleWaitOps k) s = .next t ∧
      t.out = s.out ++ symbols (if k < s.cfg.idleThreshold then [] else [0x80]) ∧
      t.idleCnt.toNat = min k 255

/-- R142: SYNC faults inside a local frame; else, exactly when the counter has gone SYNC_INTERVAL on from
`sync.ref` modulo 2^W, it pushes GAP and sets `sync.ref` to `now`. Nothing else changes. -/
def Obligations.SyncTakesDuePause : Prop :=
  ∀ (now : Nat) (s : State), Instr.wellFormed s.cfg (.sync now) = true →
    (s.encActive = true → exec (.sync now) s = .fault .pauseDuringFrame) ∧
    (s.encActive = false →
      exec (.sync now) s =
        if (s.cfg.syncInterval : Int) ≤ ((now : Int) - (s.syncRef : Int)) % (2 ^ s.cfg.timerWidth : Int) then
          .next { s with out := s.out ++ [.gap], syncRef := now }
        else .next s)

/-- R142, R243: with the counter read `elapsed < 2^W` counts after the last pause, whether or not it wrapped past
0 meanwhile, the pause is taken exactly when `elapsed` is at least SYNC_INTERVAL. -/
def Obligations.SyncMeasuresElapsedAcrossRollover : Prop :=
  ∀ (elapsed : Nat) (s : State), s.encActive = false → s.syncRef < 2 ^ s.cfg.timerWidth →
    elapsed < 2 ^ s.cfg.timerWidth →
    ∃ t, exec (.sync ((s.syncRef + elapsed) % 2 ^ s.cfg.timerWidth)) s = .next t ∧
      t.out = s.out ++ (if s.cfg.syncInterval ≤ elapsed then [.gap] else [])

/-! ## Reception State Machine -/

/-- R164 with R161, R162: a framing error abandons the open frame and publishes Malformed-Packet at `head`, or,
with no free cell, sets `ovf`; the byte and the overrun flag do not matter. Nothing else changes. -/
def Obligations.FramingErrorRow : Prop :=
  ∀ (b : Byte) (s : State),
    let t : State :=
      if s.inc s.head ≠ s.tail then
        { s.setCell s.head 0xF2 with head := s.inc s.head, wr := s.inc s.head, mode := .discard }
      else { s with wr := s.head, mode := .discard, ovf := true }
    exec (.rxFe b) s = .next t ∧ exec (.rxFeOvr b) s = .next t

/-- R165 with R161 to R163: an overrun abandons the open frame and publishes Hard-Overflow at `head` (or sets
`ovf`); a retrieved start byte then opens a frame, or becomes Chain-Too-Long, or is dropped with `ovf` set where
no cell is free; a retrieved body byte is dropped. Nothing else changes. -/
def Obligations.OverrunRow : Prop :=
  ∀ (b : Byte) (s : State),
    let i := s.inc s.head
    let published : State := { s.setCell s.head 0xF5 with head := i, wr := i, mode := .discard }
    (i = s.tail → exec (.rxOvr b) s = .next { s with wr := s.head, mode := .discard, ovf := true }) ∧
    (i ≠ s.tail → b[7] = false → exec (.rxOvr b) s = .next published) ∧
    (i ≠ s.tail → b[7] = true →
      (s.inc i = s.tail → exec (.rxOvr b) s = .next { published with ovf := true }) ∧
      (s.inc i ≠ s.tail → b.extractLsb' 4 3 = (7 : BitVec 3) →
        exec (.rxOvr b) s = .next { published.setCell i 0xF3 with head := s.inc i, wr := s.inc i }) ∧
      (s.inc i ≠ s.tail → b.extractLsb' 4 3 ≠ (7 : BitVec 3) →
        exec (.rxOvr b) s = .next { published.setCell i b with wr := s.inc i, mode := .opened }))

/-- R166: a body byte with room is appended to the open frame. Nothing else changes. -/
def Obligations.BodyAppendRow : Prop :=
  ∀ (b : Byte) (s : State), b[7] = false → s.mode = .opened → s.inc s.wr ≠ s.tail →
    exec (.rx b) s = .next { s.setCell s.wr b with wr := s.inc s.wr }

/-- R167: a body byte with no room, the open frame alone in the buffer: the frame becomes Malformed-Packet, the
byte is dropped and `ovf` is not set. Nothing else changes. -/
def Obligations.BodyOversizeRow : Prop :=
  ∀ (b : Byte) (s : State), b[7] = false → s.mode = .opened → s.inc s.wr = s.tail → s.tail = s.head →
    exec (.rx b) s =
      .next { s.setCell s.head 0xF2 with head := s.inc s.head, wr := s.inc s.head, mode := .discard }

/-- R168: a body byte with no room, with closed units in the buffer: the open frame is evicted and `ovf` set.
No cell changes, and nothing else. -/
def Obligations.BodyEvictRow : Prop :=
  ∀ (b : Byte) (s : State), b[7] = false → s.mode = .opened → s.inc s.wr = s.tail → s.tail ≠ s.head →
    exec (.rx b) s = .next { s with wr := s.head, mode := .discard, ovf := true }

/-- R169: a body byte with no valid open frame is dropped; no state changes. -/
def Obligations.DiscardedBodyRow : Prop :=
  ∀ (b : Byte) (s : State), b[7] = false → s.mode = .discard → exec (.rx b) s = .next s

/-- R170, R163: a start byte with no valid open frame: dropped with `ovf` set when the buffer is full of closed
units, Chain-Too-Long when its address is 7, else the new open frame at `head`. Nothing else changes. -/
def Obligations.StartInDiscardRow : Prop :=
  ∀ (b : Byte) (s : State), b[7] = true → s.mode = .discard →
    (s.inc s.head = s.tail → exec (.rx b) s = .next { s with ovf := true }) ∧
    (s.inc s.head ≠ s.tail → b.extractLsb' 4 3 = (7 : BitVec 3) →
      exec (.rx b) s = .next { s.setCell s.head 0xF3 with head := s.inc s.head, wr := s.inc s.head }) ∧
    (s.inc s.head ≠ s.tail → b.extractLsb' 4 3 ≠ (7 : BitVec 3) →
      exec (.rx b) s = .next { s.setCell s.head b with wr := s.inc s.head, mode := .opened })

/-- R171, R172: a start byte with an open frame and room: the open frame is published, and the byte opens the
next frame, or becomes Chain-Too-Long when its address is 7. Nothing else changes. -/
def Obligations.StartWhileOpenRoomRow : Prop :=
  ∀ (b : Byte) (s : State), b[7] = true → s.mode = .opened → s.inc s.wr ≠ s.tail →
    (b.extractLsb' 4 3 = (7 : BitVec 3) →
      exec (.rx b) s =
        .next { s.setCell s.wr 0xF3 with head := s.inc s.wr, wr := s.inc s.wr, mode := .discard }) ∧
    (b.extractLsb' 4 3 ≠ (7 : BitVec 3) →
      exec (.rx b) s = .next { s.setCell s.wr b with head := s.wr, wr := s.inc s.wr })

/-- R173: a start byte with an open frame and no room. Case (a), the frame just closed is the only content: it is
overwritten in place with Malformed-Packet, or Chain-Too-Long when the new address is 7, and a legal start byte
opens the frame behind it where a cell is free. Case (b): the start byte is dropped and `ovf` set, the frame just
closed staying published. Nothing else changes. -/
def Obligations.StartWhileOpenNoRoomRow : Prop :=
  ∀ (b : Byte) (s : State), b[7] = true → s.mode = .opened → s.inc s.wr = s.tail →
    let i := s.inc s.tail
    (s.head = s.tail → b.extractLsb' 4 3 = (7 : BitVec 3) →
      exec (.rx b) s = .next { s.setCell s.tail 0xF3 with head := i, wr := i, mode := .discard }) ∧
    (s.head = s.tail → b.extractLsb' 4 3 ≠ (7 : BitVec 3) → s.inc i = s.tail →
      exec (.rx b) s = .next { s.setCell s.tail 0xF2 with head := i, wr := i, mode := .discard }) ∧
    (s.head = s.tail → b.extractLsb' 4 3 ≠ (7 : BitVec 3) → s.inc i ≠ s.tail →
      exec (.rx b) s = .next { (s.setCell s.tail 0xF2).setCell i b with head := i, wr := s.inc i }) ∧
    (s.head ≠ s.tail →
      exec (.rx b) s = .next { s with head := s.wr, mode := .discard, ovf := true })

/-- R174: every receive step, of each of the four forms, answers a next state and keeps the invariants of the
receive state (R28): `BufferOk`, and where `tail` stands at the start of a unit (R28 item 5's first cell, which
log 13 reads as true except inside a data unit being forwarded) it stands so afterwards. -/
def Obligations.ReceiveStepKeepsBufferInvariant : Prop :=
  ∀ (b : Byte) (fe ovr : Bool) (s : State), BufferOk s →
    ∃ t, exec (rxInstr b fe ovr) s = .next t ∧ BufferOk t ∧ (AtUnit s → AtUnit t)

/-- The frame of a receive step: it writes the cells `rxStores` computes and no other byte of memory; they are at
most two (R267), and where the invariants hold none of them lies in the closed region (R70, R174). -/
def Obligations.ReceiveStepStoresOutsideClosedRegion : Prop :=
  ∀ (b : Byte) (fe ovr : Bool) (s t : State), exec (rxInstr b fe ovr) s = .next t →
    (∀ a, a ∉ (rxStores b fe ovr s).map (· % s.cfg.rbSize) → t.buf.read a = s.buf.read a) ∧
    (rxStores b fe ovr s).length ≤ 2 ∧
    (BufferOk s → ∀ a ∈ rxStores b fe ovr s, ∀ k, k < s.span s.tail s.head →
      a % s.cfg.rbSize ≠ (s.tail + k) % s.cfg.rbSize)

/-- The frame of a receive step beside the receive state: it never pushes (R160), never moves `tail` (R59), never
clears `ovf` (R26), and leaves the poll context as it is (R239). -/
def Obligations.ReceiveStepLeavesPollContextState : Prop :=
  ∀ (b : Byte) (fe ovr : Bool) (s : State),
    ∃ t, exec (rxInstr b fe ovr) s = .next t ∧
      t.tail = s.tail ∧ (s.ovf = true → t.ovf = true) ∧
      t.encActive = s.encActive ∧ t.encCsum = s.encCsum ∧ t.encHb = s.encHb ∧ t.encCnt = s.encCnt ∧
      t.encN = s.encN ∧ t.idleCnt = s.idleCnt ∧ t.idleDone = s.idleDone ∧ t.syncRef = s.syncRef ∧
      t.out = s.out ∧ t.queued = s.queued ∧ t.todo = s.todo ∧ t.agenda = s.agenda ∧ t.cfg = s.cfg ∧
      t.draws = s.draws

/-! ## Relay/Forwarder -/

/-- R202: with no closed unit, POLL reports and clears the sticky overflow flag if it was set, and otherwise does
nothing. Nothing else changes. -/
def Obligations.PollReportsOverflowOnEmptyBuffer : Prop :=
  ∀ s : State, Ready s → s.encActive = false → s.tail = s.head →
    (s.ovf = false → exec .poll s = .next s) ∧
    (s.ovf = true → s.roomFor 4 = true →
      exec .poll s = .next { s with
        ovf := false, idleCnt := 0, idleDone := false,
        out := s.out ++ symbols [0x80, 0x04, 0x00, 0x04], queued := s.queued + 4 })

/-- R204: POLL consumes a pseudo unit, emits its management frame, and reports and clears a pending overflow in
the same call: after the management frame, or, only under MGMT_SOFT_ORDER = either, possibly before it. -/
def Obligations.PollEmitsManagementFrame : Prop :=
  ∀ (s : State) (u c : Byte), Ready s → s.encActive = false → s.tail ≠ s.head → s.cell s.tail = u →
    (u = 0xF2 ∧ c = 0x02 ∨ u = 0xF3 ∧ c = 0x03 ∨ u = 0xF5 ∧ c = 0x05) →
    s.roomFor 8 = true →
    let mgmt : List Byte := [0x80, c, 0x00, c]
    let soft : List Byte := if s.ovf then [0x80, 0x04, 0x00, 0x04] else []
    ∃ (bs : List Byte) (d : Nat),
      exec .poll s = .next { s with
        tail := s.inc s.tail, ovf := false, idleCnt := 0, idleDone := false, draws := d,
        out := s.out ++ symbols bs, queued := s.queued + bs.length } ∧
      (bs = mgmt ++ soft ∨ s.cfg.mgmtSoftOrder = .either ∧ bs = soft ++ mgmt) ∧
      (s.cfg.mgmtSoftOrder = .after → d = s.draws)

/-- R203, R144: a call that finds only Idle units consumes them all in silence: it pushes nothing and does not
reset the tracker. -/
def Obligations.PollConsumesIdleUnits : Prop :=
  ∀ s : State, Inv s → Ready s → s.encActive = false → s.ovf = false →
    (∀ c ∈ s.closedCells, c = 0x80) →
    exec .poll s = .next { s with tail := s.head }

/-- R205, R206, R207: a data unit `u :: body` at `tail` is consumed and forwarded with its address one hop on, its
body verbatim but for the last cell, which takes the start-byte delta; a pending overflow is reported behind it.
A unit of the start byte alone is forwarded as that one byte. Nothing else changes. -/
def Obligations.PollForwardsDataUnit : Prop :=
  ∀ (s : State) (u : Byte) (body rest : List Byte), Inv s → Ready s → s.encActive = false →
    s.closedCells = u :: (body ++ rest) → 0x80 ≤ u.toNat → u.toNat ≤ 0xEF →
    (∀ x ∈ body, x[7] = false) → (∀ x, rest.head? = some x → x[7] = true) →
    (u = 0x80 → body ≠ []) →
    ∀ bs : List Byte,
    (body = [] ∧ bs = [u + 0x10] ∨
      ∃ (front : List Byte) (c : Byte), body = front ++ [c] ∧
        bs = (u + 0x10) :: front ++ [c ^^^ u ^^^ (u + 0x10)]) →
    let sent : List Byte := bs ++ if s.ovf then [0x80, 0x04, 0x00, 0x04] else []
    s.roomFor sent.length = true →
    exec .poll s = .next { s with
      tail := (s.tail + (body.length + 1)) % s.cfg.rbSize, ovf := false, idleCnt := 0, idleDone := false,
      out := s.out ++ symbols sent, queued := s.queued + sent.length }

/-- The refinement of R200 to whole units: from every state that meets the invariant, the cell-by-cell POLL does
exactly what the functions on whole units say: it drops the leading Idle units, emits the frame of the next unit,
and reports a pending overflow behind it, or, only under MGMT_SOFT_ORDER = either and only with a management frame,
possibly before it (R204). `draws` is the model's own counter (log 7). -/
def Obligations.PollRefinesWholeUnitRelay : Prop :=
  ∀ s : State, Inv s → Ready s → s.encActive = false →
    let cells := s.closedCells
    let units := dropIdle cells
    let frame := relayBytes units
    let soft := if s.ovf then softFrame else []
    s.roomFor (frame ++ soft).length = true →
    ∃ (sent : List Byte) (d : Nat),
      exec .poll s = .next { s with
        tail := (s.tail + (cells.length - units.length + relayTakes units)) % s.cfg.rbSize,
        ovf := false,
        idleCnt := if sent = [] then s.idleCnt else 0,
        idleDone := if sent = [] then s.idleDone else false,
        draws := d,
        out := s.out ++ symbols sent, queued := s.queued + sent.length } ∧
      (sent = frame ++ soft ∨
        s.cfg.mgmtSoftOrder = .either ∧ (∃ u cs, units = u :: cs ∧ isPseudo u = true) ∧ sent = soft ++ frame) ∧
      (s.cfg.mgmtSoftOrder = .after → d = s.draws)

/-- R200, R234: POLL faults inside a local frame. R208: it faults on a unit whose first cell is a body byte or an
unassigned code. -/
def Obligations.PollFaults : Prop :=
  ∀ s : State,
    (s.encActive = true → exec .poll s = .fault .relayDuringFrame) ∧
    (∀ u : Byte, Ready s → s.encActive = false → s.tail ≠ s.head → s.cell s.tail = u →
      (u[7] = false ∨ 0xF0 ≤ u.toNat ∧ u ≠ 0xF2 ∧ u ≠ 0xF3 ∧ u ≠ 0xF5) →
      exec .poll s = .fault .bufferInvariant)

/-- R270, R201: whatever bytes arrive and whenever the drainer moves during a POLL that finds a data unit first,
the bytes it pushes are those of that unit as forwarded, in order, then at most one Soft-Overflow report; once
the call has ended, all of the unit has been pushed. -/
def Obligations.RelayedUnitIndependentOfArrivals : Prop :=
  ∀ (s : State) (u : Byte) (cs : List Byte) (now : Nat) (es : List Event),
    Inv s → s.todo = [] → s.encActive = false →
    s.closedCells = u :: cs → isLegalStart u = true → (u = idleByte → startsUnit cs = false) →
    s.agenda = .issue ⟨0x5000, now⟩ :: es → onlyAsync es = true →
    ∀ (k : Nat) (t : State), Host.Core.run Sys2Proof.core k s = .next t →
      ∃ n, t.out = s.out ++ symbols ((forwardBytes u (unitBody cs) ++ softFrame).take n) ∧
        (t.todo = [] → t.agenda.length ≤ es.length → (forwardBytes u (unitBody cs)).length ≤ n)

/-- R213: an operation in progress ends, and every arriving byte and drainer step of the schedule happens, in a
number of steps bounded by the schedule, when the outgoing queue is unbounded. -/
def Obligations.OperationInProgressEnds : Prop :=
  ∀ s : State, Inv s → s.cfg.outqSize = none → onlyAsync s.agenda = true →
    ∃ t, Host.Core.run Sys2Proof.core (2 * s.agenda.length + 1) s = .next t ∧ Ended t

/-! ## Wire frames, end to end -/

/-- R84: bit i of a side-channel byte is the top bit of the run's (i+1)-th byte, the bits above the run length and
bit 7 are 0. -/
def Obligations.SideChannelByteBits : Prop :=
  ∀ q : List Byte, q.length ≤ 7 →
    (∀ i, i < q.length → (sideByte q).getLsbD i = (q.getD i 0)[7]) ∧
    (∀ i, q.length ≤ i → (sideByte q).getLsbD i = false)

/-- R86: a frame of n payload bytes has 2 + n + ceil(n / 7) wire bytes, at most 16. -/
def Obligations.WireFrameLength : Prop :=
  ∀ (a : BitVec 3) (p : BitVec 4) (payload : List Byte), payload.length ≤ 12 →
    (encodeFrame a p payload).length = 2 + payload.length + (payload.length + 6) / 7 ∧
    (encodeFrame a p payload).length ≤ 16

/-- R87: reading back a wire frame gives its address, protocol and payload, every bit of it. -/
def Obligations.DecodeFrameInvertsEncodeFrame : Prop :=
  ∀ (a : BitVec 3) (p : BitVec 4) (payload : List Byte), payload.length ≤ 12 →
    decodeFrame (encodeFrame a p payload) = some (a, p, payload)

/-- R210, R205, R175: a frame of address a that takes at most RB_SIZE - 2 cells, received without errors into an
empty buffer and closed by any start byte, is relayed as the frame of address a + 1 with the same protocol and
payload, its checksum right. -/
def Obligations.ReceivedFrameIsRelayedOneHopOn : Prop :=
  ∀ (a : BitVec 3) (p : BitVec 4) (payload : List Byte) (closing : Byte) (s : State),
    a ≠ 7 → payload.length ≤ 12 → isStart closing = true →
    Inv s → Ready s → s.encActive = false → s.mode = .discard → s.tail = s.head → s.ovf = false →
    (encodeFrame a p payload).length + 2 ≤ s.cfg.rbSize →
    s.roomFor (encodeFrame a p payload).length = true →
    ∃ t, execAll (rxOps (encodeFrame a p payload ++ [closing]) ++ [.poll]) s = .next t ∧
      t.out = s.out ++ symbols (encodeFrame (a + 1) p payload) ∧ t.ovf = false ∧ t.idleCnt = 0

/-- R175, R167, R173: a frame of RB_SIZE - 1 cells or more, received into an empty buffer and closed by a legal
start byte, leaves one closed unit, Malformed-Packet, and no overflow. -/
def Obligations.OversizedFrameBecomesMalformed : Prop :=
  ∀ (u : Byte) (body : List Byte) (closing : Byte) (s : State),
    isLegalStart u = true → (∀ c ∈ body, isBody c = true) → isLegalStart closing = true →
    BufferOk s → s.mode = .discard → s.tail = s.head → s.ovf = false →
    s.cfg.rbSize - 1 ≤ body.length + 1 →
    ∃ t, execAll (rxOps (u :: body ++ [closing])) s = .next t ∧
      t.closedCells = [0xF2] ∧ t.openCells = [closing] ∧ t.ovf = false

/-- R246, R212: a frame that a board originates crosses up to seven boards, its address counting them, and at the
eighth it is replaced by the Chain-Too-Long management frame, whatever the boards' cells hold at power-up. The line
without errors and the boards' schedule, all bytes before one POLL, are the model's choice (log 16). -/
def Obligations.FrameCrossesSevenBoards : Prop :=
  ∀ (c : Config) (ms : Nat → Memory) (p : BitVec 4) (payload : List Byte),
    c.Legal → 18 ≤ c.rbSize → c.outqSize = none → (∀ k, (ms k).fits c) → payload.length ≤ 12 →
    (∀ k, k ≤ 7 → chainOutput c ms k (encodeFrame 0 p payload) = encodeFrame (BitVec.ofNat 3 k) p payload) ∧
    chainOutput c ms 8 (encodeFrame 0 p payload) = [0x80, 0x03, 0x00, 0x03]

/-! ## Every step -/

/-- R28, R40: from every state that meets the invariant, every step gives a state that meets it: whatever
operation runs, is resumed or is preempted, and whatever arrives. -/
def Obligations.StepKeepsInvariant : Prop :=
  ∀ s t : State, Inv s → step s = .next t → Inv t

/-- R208, R234: from a state that meets the invariant, a step faults only on a command whose contract the caller
broke: never on the buffer's contents, and never inside an operation. -/
def Obligations.OnlyContractFaults : Prop :=
  ∀ (s : State) (f : Fault), Inv s → step s = .fault f →
    ∃ (c : Command) (es : List Event) (i : Instr),
      s.todo = [] ∧ s.agenda = .issue c :: es ∧ decode c = .ok i ∧
      ((∃ b, i = .send b ∧ s.encActive = false ∧ f = .encNotStarted .send) ∨
       (∃ b, i = .send b ∧ s.encActive = true ∧ s.encN = 12 ∧ f = .encPayloadTooLong) ∨
       (i = .endFrame ∧ s.encActive = false ∧ f = .encNotStarted .endFrame) ∨
       (i = .poll ∧ s.encActive = true ∧ f = .relayDuringFrame) ∨
       (∃ now, i = .sync now ∧ s.encActive = true ∧ f = .pauseDuringFrame))

/-- R26, R66, R232: a pending overflow survives every operation but POLL and RESET, and a completed POLL clears it
only by pushing the Soft-Overflow report. -/
def Obligations.PendingOverflowIsReported : Prop :=
  ∀ (i : Instr) (s t : State), s.ovf = true → exec i s = .next t → i ≠ .reset →
    (i ≠ .poll → t.ovf = true) ∧
    (i = .poll → t.ovf = true ∨ t.todo ≠ [] ∨
      ∃ before after, t.out = s.out ++ before ++ symbols [0x80, 0x04, 0x00, 0x04] ++ after)

/-- R15: no step takes a symbol back: the outgoing stream before a step is a prefix of the stream after it. -/
def Obligations.OutgoingStreamOnlyGrows : Prop :=
  ∀ s t : State, step s = .next t → ∃ o, t.out = s.out ++ o

/-- R6: no step changes a parameter. -/
def Obligations.ParametersNeverChange : Prop :=
  ∀ s t : State, step s = .next t → t.cfg = s.cfg

/-- R239, R61: a byte that arrives at a micro-step boundary, inside an operation or between two, is one whole
receive step, and the poll context's remaining micro-steps and values are the same after it. -/
def Obligations.ArrivingByteRunsBetweenMicroSteps : Prop :=
  ∀ (s : State) (n : Nat) (b : Byte) (fe ovr : Bool) (es : List Event),
    s.agenda = .arrive n b fe ovr :: es → (n = 0 ∨ s.todo = [] ∨ s.held = true) →
    step s = exec (rxInstr b fe ovr) { s with agenda := es } ∧
    ∃ t, step s = .next t ∧ t.todo = s.todo

/-- R73, R11: while the outgoing queue is full, an operation whose next micro-step pushes stays where it is. A step
with nothing else to do answers the same state, which is the model's reading of the hold (log 6); the next arriving
byte is one whole receive step; and after a drainer step, which changes nothing else, the Push finds a slot. -/
def Obligations.PushHoldsWhileQueueFull : Prop :=
  ∀ (s : State) (m : Micro) (ms : List Micro) (k : Nat),
    s.todo = m :: ms → m.pushes = true → s.cfg.outqSize = some k → 0 < k → s.queued = k →
    (s.agenda = [] → step s = .next s) ∧
    (∀ c es, s.agenda = .issue c :: es → step s = .next s) ∧
    (∀ n b fe ovr es, s.agenda = .arrive n b fe ovr :: es →
      ∃ t, step s = .next t ∧ exec (rxInstr b fe ovr) { s with agenda := es } = .next t ∧
        t.todo = s.todo ∧ t.out = s.out) ∧
    (∀ n es, s.agenda = .drain n :: es →
      ∃ t, step s = .next t ∧ t = { s with agenda := es, queued := k - 1 } ∧ t.roomFor 1 = true)

/-- R73: a drainer step, between operations, at a micro-step boundary or while a Push holds, frees one slot of the
outgoing queue, if it holds a byte, and changes nothing else of the block. -/
def Obligations.DrainerStepFreesOneSlot : Prop :=
  ∀ (s : State) (n : Nat) (es : List Event),
    s.agenda = .drain n :: es → (n = 0 ∨ s.todo = [] ∨ s.held = true) →
    step s = .next { s with agenda := es, queued := s.queued - 1 }

/-! ## Frames that the encoder did not make -/

/-- R210: the relayed frame of a data unit whose bytes are a consistent frame by R87, whatever its side-channel
bytes hold, is a consistent frame of the next address, with the same protocol and payload. -/
def Obligations.RelayKeepsFrameConsistent : Prop :=
  ∀ (u : Byte) (body : List Byte) (a : BitVec 3) (p : BitVec 4) (payload : List Byte),
    decodeFrame (u :: body) = some (a, p, payload) → a ≠ 7 →
    decodeFrame (forwardBytes u body) = some (a + 1, p, payload)
end

