-- ==== Sys2Proof/Laws/Decode.lean ====
section
/-! SUPPORT. The rows of the opcode table do not overlap, so the order in which the decoder tries them does not
matter (R96), and what the decoder answers comes from the row the word lies in. -/

namespace Sys2Proof

/-- A bit that both rows fix, to different values. -/
def OpRow.disjoint (r q : OpRow) : Bool := (r.pattern ^^^ q.pattern) &&& r.mask &&& q.mask != 0

theorem opRows_pairwise_disjoint : opRows.Pairwise (fun r q => r.disjoint q = true) := by decide

/-- No word lies in two disjoint rows. -/
theorem OpRow.not_holds_of_disjoint {r q : OpRow} {w : CmdWord} (h : r.disjoint q = true)
    (hr : r.holds w = true) : q.holds w = false := by
  by_contra hq
  simp only [Bool.not_eq_false] at hq
  simp only [OpRow.holds, beq_iff_eq] at hr hq
  simp only [OpRow.disjoint, bne_iff_ne, ne_eq, ← hr, ← hq] at h
  apply h
  ext i hi
  cases hw : w[i] <;> cases hrm : r.mask[i] <;> cases hqm : q.mask[i] <;> simp [hw, hrm, hqm]

/-- What the decoder answers on a word of the table. -/
theorem decode_eq_ok {c : Command} {i : Instr} (h : decode c = .ok i) :
    ∃ r ∈ opRows, r.holds c.word = true ∧ r.build c.word c.now = i := by
  unfold decode at h
  split at h
  · rename_i r hr
    cases h
    exact ⟨r, List.mem_of_find?_eq_some hr, by simpa using List.find?_some hr, rfl⟩
  · cases h

/-- A word that lies in no row is rejected, under the name R96 gives. -/
theorem decode_eq_error {c : Command} (h : ∀ r ∈ opRows, r.holds c.word = false) :
    decode c = .error (rejection c.word) := by
  unfold decode
  rw [List.find?_eq_none.mpr (fun r hr => by simp [h r hr])]

end Sys2Proof
end

