-- ==== Sys2Proof/Laws/Memory.lean ====
section
/-! SUPPORT. The ring buffer's memory: a read after a write, and that every write keeps the canonical form and
adds only the cell written. -/

namespace Sys2Proof.Machine

theorem Memory.read_cons (e : Host.Cell) (m : Memory) (a : Nat) :
    Memory.read (e :: m) a = if e.1 = a then e.2 else m.read a := rfl

/-- A cell that the list does not hold reads as an unlisted one. -/
theorem Memory.read_of_not_mem {m : Memory} {a : Nat} (h : ∀ e ∈ m, e.1 ≠ a) : m.read a = unlistedCell := by
  induction m with
  | nil => rfl
  | cons e m ih =>
    rw [Memory.read_cons, if_neg (h e List.mem_cons_self)]
    exact ih fun f hf => h f (List.mem_cons_of_mem _ hf)

/-- What listing a cell, or leaving it out, reads as: before a list that does not hold it. -/
theorem Memory.read_put {m : Memory} {i a : Nat} {b : Byte} (h : ∀ e ∈ m, e.1 ≠ i) :
    (m.put i b).read a = if i = a then b else m.read a := by
  unfold Memory.put
  split
  · rename_i hb
    split
    · rename_i hia
      rw [hb, Memory.read_of_not_mem (hia ▸ h)]
    · rfl
  · rfl

theorem Memory.mem_put {m : Memory} {i : Nat} {b : Byte} {c : Host.Cell} (h : c ∈ m.put i b) :
    c = (i, b) ∧ b ≠ unlistedCell ∨ c ∈ m := by
  unfold Memory.put at h
  split at h
  · exact .inr h
  · rename_i hb
    exact (List.mem_cons.mp h).imp_left fun e => ⟨e, hb⟩

/-- What a write can put into the list: the cell written, and cells that were there. -/
theorem Memory.mem_write {m : Memory} {i : Nat} {b : Byte} {c : Host.Cell} (h : c ∈ m.write i b) :
    c = (i, b) ∧ b ≠ unlistedCell ∨ c ∈ m := by
  induction m with
  | nil => exact Memory.mem_put h
  | cons e m ih =>
    obtain ⟨j, d⟩ := e
    simp only [Memory.write] at h
    split at h
    · exact Memory.mem_put h
    · split at h
      · exact (Memory.mem_put h).imp_right (List.mem_cons_of_mem _)
      · rcases List.mem_cons.mp h with h | h
        · exact .inr (h ▸ List.mem_cons_self)
        · exact (ih h).imp_right (List.mem_cons_of_mem _)

/-- Rising indices as a pairwise order. -/
theorem Memory.rising_iff_pairwise (m : Memory) : m.rising = true ↔ m.Pairwise (fun a b => a.1 < b.1) := by
  induction m with
  | nil => simp [Memory.rising]
  | cons a m ih =>
    cases m with
    | nil => simp [Memory.rising]
    | cons b m =>
      simp only [Memory.rising, Bool.and_eq_true, decide_eq_true_eq, ih, List.pairwise_cons]
      constructor
      · rintro ⟨hab, hb, hm⟩
        refine ⟨?_, hb, hm⟩
        intro c hc
        rcases List.mem_cons.mp hc with rfl | hc
        · exact hab
        · exact Nat.lt_trans hab (hb c hc)
      · rintro ⟨ha, hb, hm⟩
        exact ⟨ha b List.mem_cons_self, hb, hm⟩

/-- The canonical form in propositions. -/
theorem Memory.wf_iff (m : Memory) :
    m.wf = true ↔ m.Pairwise (fun a b => a.1 < b.1) ∧ ∀ c ∈ m, c.2 ≠ unlistedCell := by
  simp [Memory.wf, Memory.rising_iff_pairwise]

/-- A read after a write: the byte written at that cell, the old byte at every other. -/
theorem Memory.read_write {m : Memory} (i a : Nat) (b : Byte) (h : m.wf = true) :
    (m.write i b).read a = if i = a then b else m.read a := by
  replace h := ((Memory.wf_iff m).mp h).1
  induction m with
  | nil => exact Memory.read_put (by simp)
  | cons e m ih =>
    obtain ⟨j, d⟩ := e
    rw [List.pairwise_cons] at h
    simp only [Memory.write]
    split
    · rename_i hij
      refine Memory.read_put fun f hf => ?_
      rcases List.mem_cons.mp hf with rfl | hf
      · exact Nat.ne_of_gt hij
      · exact Nat.ne_of_gt (Nat.lt_trans hij (h.1 f hf))
    · split
      · rename_i hij
        subst hij
        rw [Memory.read_put fun f hf => Nat.ne_of_gt (h.1 f hf), Memory.read_cons]
        split <;> rfl
      · rename_i hij
        rw [Memory.read_cons, Memory.read_cons, ih h.2]
        by_cases hja : j = a
        · have hia : ¬ i = a := fun e => hij (e.trans hja.symm)
          simp [hja, hia]
        · simp [hja]

/-- A write leaves every other cell, in any list. -/
theorem Memory.read_write_other {m : Memory} {i a : Nat} (b : Byte) (h : a ≠ i) :
    (m.write i b).read a = m.read a := by
  have put : ∀ l : Memory, (l.put i b).read a = l.read a := by
    intro l
    unfold Memory.put
    split
    · rfl
    · rw [Memory.read_cons, if_neg (Ne.symm h)]
  induction m with
  | nil => exact put []
  | cons e m ih =>
    obtain ⟨j, d⟩ := e
    simp only [Memory.write]
    split
    · exact put _
    · split
      · rename_i hij
        rw [put, Memory.read_cons, if_neg (hij ▸ Ne.symm h)]
      · rw [Memory.read_cons, Memory.read_cons, ih]

/-- Every write keeps the canonical form. -/
theorem Memory.wf_write {m : Memory} (i : Nat) (b : Byte) (h : m.wf = true) : (m.write i b).wf = true := by
  rw [Memory.wf_iff] at *
  refine ⟨?_, fun c hc => (Memory.mem_write hc).elim (fun e => e.1 ▸ e.2) (h.2 c)⟩
  replace h := h.1
  have put : ∀ {l : Memory}, l.Pairwise (fun a b => a.1 < b.1) → (∀ c ∈ l, i < c.1) →
      (l.put i b).Pairwise (fun a b => a.1 < b.1) := by
    intro l hl hi
    unfold Memory.put
    split
    · exact hl
    · exact List.pairwise_cons.mpr ⟨hi, hl⟩
  induction m with
  | nil => exact put List.Pairwise.nil (by simp)
  | cons e m ih =>
    obtain ⟨j, d⟩ := e
    have h' := List.pairwise_cons.mp h
    simp only [Memory.write]
    split
    · rename_i hij
      refine put h fun c hc => ?_
      rcases List.mem_cons.mp hc with rfl | hc
      · exact hij
      · exact Nat.lt_trans hij (h'.1 c hc)
    · split
      · rename_i hij
        exact put h'.2 fun c hc => hij ▸ h'.1 c hc
      · refine List.pairwise_cons.mpr ⟨fun c hc => ?_, ih h'.2⟩
        rcases Memory.mem_write hc with e | hc
        · rw [e.1]; exact Nat.lt_of_le_of_ne (Nat.le_of_not_lt ‹_›) (fun hji => ‹¬ i = j› hji.symm)
        · exact h'.1 c hc

/-- Every write keeps contents that fit the buffer, where the cell exists. -/
theorem Memory.fits_write {c : Config} {m : Memory} {i : Nat} (b : Byte) (hi : i < c.rbSize) (h : m.fits c) :
    (m.write i b).fits c :=
  ⟨Memory.wf_write i b h.1, fun e he => (Memory.mem_write he).elim (fun x => by rw [x.1]; exact hi) (h.2 e)⟩

/-- Two memories in the canonical form that read alike are the same list. -/
theorem Memory.ext_of_read {m n : Memory} (hm : m.wf = true) (hn : n.wf = true) (h : ∀ a, m.read a = n.read a) :
    m = n := by
  rw [Memory.wf_iff] at hm hn
  have below : ∀ {l : Memory} {a : Nat}, (∀ e ∈ l, a < e.1) → l.read a = unlistedCell :=
    fun hl => Memory.read_of_not_mem fun e he => Nat.ne_of_gt (hl e he)
  induction m generalizing n with
  | nil =>
    cases n with
    | nil => rfl
    | cons e n =>
      exact absurd (by simpa [Memory.read] using (h e.1).symm) (hn.2 e List.mem_cons_self)
  | cons d m ih =>
    cases n with
    | nil => exact absurd (by simpa [Memory.read] using h d.1) (hm.2 d List.mem_cons_self)
    | cons e n =>
      obtain ⟨hdm, hm1⟩ := List.pairwise_cons.mp hm.1
      obtain ⟨hen, hn1⟩ := List.pairwise_cons.mp hn.1
      have hd := hm.2 d List.mem_cons_self
      have he := hn.2 e List.mem_cons_self
      have key : d.1 = e.1 := by
        rcases Nat.lt_trichotomy d.1 e.1 with hlt | heq | hgt
        · refine absurd ?_ hd
          have := h d.1
          rwa [Memory.read_cons, if_pos rfl, below (l := e :: n)] at this
          intro f hf
          rcases List.mem_cons.mp hf with rfl | hf
          · exact hlt
          · exact Nat.lt_trans hlt (hen f hf)
        · exact heq
        · refine absurd ?_ he
          have := (h e.1).symm
          rwa [Memory.read_cons, if_pos rfl, below (l := d :: m)] at this
          intro f hf
          rcases List.mem_cons.mp hf with rfl | hf
          · exact hgt
          · exact Nat.lt_trans hgt (hdm f hf)
      have hval : d.2 = e.2 := by simpa [Memory.read_cons, key] using h d.1
      have hde : d = e := Prod.ext key hval
      subst hde
      refine congrArg _ (ih ⟨hm1, fun c hc => hm.2 c (List.mem_cons_of_mem _ hc)⟩
        ⟨hn1, fun c hc => hn.2 c (List.mem_cons_of_mem _ hc)⟩ fun a => ?_)
      by_cases ha : d.1 = a
      · subst ha; rw [below hdm, below hen]
      · simpa [Memory.read_cons, ha] using h a

/-- The memory after reset has the canonical form. -/
theorem State.reset_buf_wf : State.reset.buf.wf = true := rfl

/-! ## Cells -/

theorem State.cell_setCell_same {s : State} (i : Nat) (b : Byte) (h : s.buf.wf = true) :
    (s.setCell i b).cell i = b := by
  simp [State.cell, State.setCell, Memory.read_write _ _ _ h]

theorem State.cell_setCell_other {s : State} {i a : Nat} (b : Byte)
    (h : a % s.cfg.rbSize ≠ i % s.cfg.rbSize) : (s.setCell i b).cell a = s.cell a := by
  exact Memory.read_write_other b h

/-- Storing a byte keeps the memory's canonical form. -/
theorem State.setCell_wf {s : State} (i : Nat) (b : Byte) (h : s.buf.wf = true) : (s.setCell i b).buf.wf = true :=
  Memory.wf_write _ b h

/-- Storing a byte keeps contents that fit the buffer. -/
theorem State.setCell_fits {s : State} (i : Nat) (b : Byte) (h : 3 ≤ s.cfg.rbSize) (hf : s.buf.fits s.cfg) :
    (s.setCell i b).buf.fits s.cfg :=
  Memory.fits_write b (Nat.mod_lt _ (by omega)) hf

/-- An index step lands on a cell that exists. -/
theorem State.inc_lt {s : State} (h : 3 ≤ s.cfg.rbSize) (i : Nat) : s.inc i < s.cfg.rbSize :=
  Nat.mod_lt _ (by omega)

end Sys2Proof.Machine
end

