-- ==== Sys2Proof/Laws/State.lean ====
section
/-! SUPPORT. One lemma per field per update of the state, true by definition, so that no later proof unfolds a
record update. -/

namespace Sys2Proof.Machine

/-! ## `State.trackerReset` -/

@[simp] theorem State.trackerReset_cfg (s : State) : s.trackerReset.cfg = s.cfg := rfl
@[simp] theorem State.trackerReset_buf (s : State) : s.trackerReset.buf = s.buf := rfl
@[simp] theorem State.trackerReset_head (s : State) : s.trackerReset.head = s.head := rfl
@[simp] theorem State.trackerReset_wr (s : State) : s.trackerReset.wr = s.wr := rfl
@[simp] theorem State.trackerReset_tail (s : State) : s.trackerReset.tail = s.tail := rfl
@[simp] theorem State.trackerReset_ovf (s : State) : s.trackerReset.ovf = s.ovf := rfl
@[simp] theorem State.trackerReset_mode (s : State) : s.trackerReset.mode = s.mode := rfl
@[simp] theorem State.trackerReset_encActive (s : State) : s.trackerReset.encActive = s.encActive := rfl
@[simp] theorem State.trackerReset_encCsum (s : State) : s.trackerReset.encCsum = s.encCsum := rfl
@[simp] theorem State.trackerReset_encHb (s : State) : s.trackerReset.encHb = s.encHb := rfl
@[simp] theorem State.trackerReset_encCnt (s : State) : s.trackerReset.encCnt = s.encCnt := rfl
@[simp] theorem State.trackerReset_encN (s : State) : s.trackerReset.encN = s.encN := rfl
@[simp] theorem State.trackerReset_idleCnt (s : State) : s.trackerReset.idleCnt = 0 := rfl
@[simp] theorem State.trackerReset_idleDone (s : State) : s.trackerReset.idleDone = false := rfl
@[simp] theorem State.trackerReset_syncRef (s : State) : s.trackerReset.syncRef = s.syncRef := rfl
@[simp] theorem State.trackerReset_out (s : State) : s.trackerReset.out = s.out := rfl
@[simp] theorem State.trackerReset_queued (s : State) : s.trackerReset.queued = s.queued := rfl
@[simp] theorem State.trackerReset_todo (s : State) : s.trackerReset.todo = s.todo := rfl
@[simp] theorem State.trackerReset_agenda (s : State) : s.trackerReset.agenda = s.agenda := rfl
@[simp] theorem State.trackerReset_draws (s : State) : s.trackerReset.draws = s.draws := rfl

/-! ## `State.pushed` -/

@[simp] theorem State.pushed_cfg (s : State) (b : Byte) : (s.pushed b).cfg = s.cfg := rfl
@[simp] theorem State.pushed_buf (s : State) (b : Byte) : (s.pushed b).buf = s.buf := rfl
@[simp] theorem State.pushed_head (s : State) (b : Byte) : (s.pushed b).head = s.head := rfl
@[simp] theorem State.pushed_wr (s : State) (b : Byte) : (s.pushed b).wr = s.wr := rfl
@[simp] theorem State.pushed_tail (s : State) (b : Byte) : (s.pushed b).tail = s.tail := rfl
@[simp] theorem State.pushed_ovf (s : State) (b : Byte) : (s.pushed b).ovf = s.ovf := rfl
@[simp] theorem State.pushed_mode (s : State) (b : Byte) : (s.pushed b).mode = s.mode := rfl
@[simp] theorem State.pushed_encActive (s : State) (b : Byte) : (s.pushed b).encActive = s.encActive := rfl
@[simp] theorem State.pushed_encCsum (s : State) (b : Byte) : (s.pushed b).encCsum = s.encCsum := rfl
@[simp] theorem State.pushed_encHb (s : State) (b : Byte) : (s.pushed b).encHb = s.encHb := rfl
@[simp] theorem State.pushed_encCnt (s : State) (b : Byte) : (s.pushed b).encCnt = s.encCnt := rfl
@[simp] theorem State.pushed_encN (s : State) (b : Byte) : (s.pushed b).encN = s.encN := rfl
@[simp] theorem State.pushed_idleCnt (s : State) (b : Byte) : (s.pushed b).idleCnt = s.idleCnt := rfl
@[simp] theorem State.pushed_idleDone (s : State) (b : Byte) : (s.pushed b).idleDone = s.idleDone := rfl
@[simp] theorem State.pushed_syncRef (s : State) (b : Byte) : (s.pushed b).syncRef = s.syncRef := rfl
@[simp] theorem State.pushed_out (s : State) (b : Byte) : (s.pushed b).out = s.out ++ [.byte b] := rfl
@[simp] theorem State.pushed_queued (s : State) (b : Byte) : (s.pushed b).queued = s.queued + 1 := rfl
@[simp] theorem State.pushed_todo (s : State) (b : Byte) : (s.pushed b).todo = s.todo := rfl
@[simp] theorem State.pushed_agenda (s : State) (b : Byte) : (s.pushed b).agenda = s.agenda := rfl
@[simp] theorem State.pushed_draws (s : State) (b : Byte) : (s.pushed b).draws = s.draws := rfl

/-! ## `State.pushedGap` -/

@[simp] theorem State.pushedGap_cfg (s : State) : s.pushedGap.cfg = s.cfg := rfl
@[simp] theorem State.pushedGap_buf (s : State) : s.pushedGap.buf = s.buf := rfl
@[simp] theorem State.pushedGap_head (s : State) : s.pushedGap.head = s.head := rfl
@[simp] theorem State.pushedGap_wr (s : State) : s.pushedGap.wr = s.wr := rfl
@[simp] theorem State.pushedGap_tail (s : State) : s.pushedGap.tail = s.tail := rfl
@[simp] theorem State.pushedGap_ovf (s : State) : s.pushedGap.ovf = s.ovf := rfl
@[simp] theorem State.pushedGap_mode (s : State) : s.pushedGap.mode = s.mode := rfl
@[simp] theorem State.pushedGap_encActive (s : State) : s.pushedGap.encActive = s.encActive := rfl
@[simp] theorem State.pushedGap_encCsum (s : State) : s.pushedGap.encCsum = s.encCsum := rfl
@[simp] theorem State.pushedGap_encHb (s : State) : s.pushedGap.encHb = s.encHb := rfl
@[simp] theorem State.pushedGap_encCnt (s : State) : s.pushedGap.encCnt = s.encCnt := rfl
@[simp] theorem State.pushedGap_encN (s : State) : s.pushedGap.encN = s.encN := rfl
@[simp] theorem State.pushedGap_idleCnt (s : State) : s.pushedGap.idleCnt = s.idleCnt := rfl
@[simp] theorem State.pushedGap_idleDone (s : State) : s.pushedGap.idleDone = s.idleDone := rfl
@[simp] theorem State.pushedGap_syncRef (s : State) : s.pushedGap.syncRef = s.syncRef := rfl
@[simp] theorem State.pushedGap_out (s : State) : s.pushedGap.out = s.out ++ [.gap] := rfl
@[simp] theorem State.pushedGap_queued (s : State) : s.pushedGap.queued = s.queued := rfl
@[simp] theorem State.pushedGap_todo (s : State) : s.pushedGap.todo = s.todo := rfl
@[simp] theorem State.pushedGap_agenda (s : State) : s.pushedGap.agenda = s.agenda := rfl
@[simp] theorem State.pushedGap_draws (s : State) : s.pushedGap.draws = s.draws := rfl

/-! ## `State.drained` -/

@[simp] theorem State.drained_cfg (s : State) : s.drained.cfg = s.cfg := rfl
@[simp] theorem State.drained_buf (s : State) : s.drained.buf = s.buf := rfl
@[simp] theorem State.drained_head (s : State) : s.drained.head = s.head := rfl
@[simp] theorem State.drained_wr (s : State) : s.drained.wr = s.wr := rfl
@[simp] theorem State.drained_tail (s : State) : s.drained.tail = s.tail := rfl
@[simp] theorem State.drained_ovf (s : State) : s.drained.ovf = s.ovf := rfl
@[simp] theorem State.drained_mode (s : State) : s.drained.mode = s.mode := rfl
@[simp] theorem State.drained_encActive (s : State) : s.drained.encActive = s.encActive := rfl
@[simp] theorem State.drained_encCsum (s : State) : s.drained.encCsum = s.encCsum := rfl
@[simp] theorem State.drained_encHb (s : State) : s.drained.encHb = s.encHb := rfl
@[simp] theorem State.drained_encCnt (s : State) : s.drained.encCnt = s.encCnt := rfl
@[simp] theorem State.drained_encN (s : State) : s.drained.encN = s.encN := rfl
@[simp] theorem State.drained_idleCnt (s : State) : s.drained.idleCnt = s.idleCnt := rfl
@[simp] theorem State.drained_idleDone (s : State) : s.drained.idleDone = s.idleDone := rfl
@[simp] theorem State.drained_syncRef (s : State) : s.drained.syncRef = s.syncRef := rfl
@[simp] theorem State.drained_out (s : State) : s.drained.out = s.out := rfl
@[simp] theorem State.drained_queued (s : State) : s.drained.queued = s.queued - 1 := rfl
@[simp] theorem State.drained_todo (s : State) : s.drained.todo = s.todo := rfl
@[simp] theorem State.drained_agenda (s : State) : s.drained.agenda = s.agenda := rfl
@[simp] theorem State.drained_draws (s : State) : s.drained.draws = s.draws := rfl

/-! ## `State.sacrificed` -/

@[simp] theorem State.sacrificed_cfg (s : State) : s.sacrificed.cfg = s.cfg := rfl
@[simp] theorem State.sacrificed_buf (s : State) : s.sacrificed.buf = s.buf := rfl
@[simp] theorem State.sacrificed_head (s : State) : s.sacrificed.head = s.head := rfl
@[simp] theorem State.sacrificed_wr (s : State) : s.sacrificed.wr = s.wr := rfl
@[simp] theorem State.sacrificed_tail (s : State) : s.sacrificed.tail = s.tail := rfl
@[simp] theorem State.sacrificed_ovf (s : State) : s.sacrificed.ovf = true := rfl
@[simp] theorem State.sacrificed_mode (s : State) : s.sacrificed.mode = s.mode := rfl
@[simp] theorem State.sacrificed_encActive (s : State) : s.sacrificed.encActive = s.encActive := rfl
@[simp] theorem State.sacrificed_encCsum (s : State) : s.sacrificed.encCsum = s.encCsum := rfl
@[simp] theorem State.sacrificed_encHb (s : State) : s.sacrificed.encHb = s.encHb := rfl
@[simp] theorem State.sacrificed_encCnt (s : State) : s.sacrificed.encCnt = s.encCnt := rfl
@[simp] theorem State.sacrificed_encN (s : State) : s.sacrificed.encN = s.encN := rfl
@[simp] theorem State.sacrificed_idleCnt (s : State) : s.sacrificed.idleCnt = s.idleCnt := rfl
@[simp] theorem State.sacrificed_idleDone (s : State) : s.sacrificed.idleDone = s.idleDone := rfl
@[simp] theorem State.sacrificed_syncRef (s : State) : s.sacrificed.syncRef = s.syncRef := rfl
@[simp] theorem State.sacrificed_out (s : State) : s.sacrificed.out = s.out := rfl
@[simp] theorem State.sacrificed_queued (s : State) : s.sacrificed.queued = s.queued := rfl
@[simp] theorem State.sacrificed_todo (s : State) : s.sacrificed.todo = s.todo := rfl
@[simp] theorem State.sacrificed_agenda (s : State) : s.sacrificed.agenda = s.agenda := rfl
@[simp] theorem State.sacrificed_draws (s : State) : s.sacrificed.draws = s.draws := rfl

/-! ## `State.ovfCleared` -/

@[simp] theorem State.ovfCleared_cfg (s : State) : s.ovfCleared.cfg = s.cfg := rfl
@[simp] theorem State.ovfCleared_buf (s : State) : s.ovfCleared.buf = s.buf := rfl
@[simp] theorem State.ovfCleared_head (s : State) : s.ovfCleared.head = s.head := rfl
@[simp] theorem State.ovfCleared_wr (s : State) : s.ovfCleared.wr = s.wr := rfl
@[simp] theorem State.ovfCleared_tail (s : State) : s.ovfCleared.tail = s.tail := rfl
@[simp] theorem State.ovfCleared_ovf (s : State) : s.ovfCleared.ovf = false := rfl
@[simp] theorem State.ovfCleared_mode (s : State) : s.ovfCleared.mode = s.mode := rfl
@[simp] theorem State.ovfCleared_encActive (s : State) : s.ovfCleared.encActive = s.encActive := rfl
@[simp] theorem State.ovfCleared_encCsum (s : State) : s.ovfCleared.encCsum = s.encCsum := rfl
@[simp] theorem State.ovfCleared_encHb (s : State) : s.ovfCleared.encHb = s.encHb := rfl
@[simp] theorem State.ovfCleared_encCnt (s : State) : s.ovfCleared.encCnt = s.encCnt := rfl
@[simp] theorem State.ovfCleared_encN (s : State) : s.ovfCleared.encN = s.encN := rfl
@[simp] theorem State.ovfCleared_idleCnt (s : State) : s.ovfCleared.idleCnt = s.idleCnt := rfl
@[simp] theorem State.ovfCleared_idleDone (s : State) : s.ovfCleared.idleDone = s.idleDone := rfl
@[simp] theorem State.ovfCleared_syncRef (s : State) : s.ovfCleared.syncRef = s.syncRef := rfl
@[simp] theorem State.ovfCleared_out (s : State) : s.ovfCleared.out = s.out := rfl
@[simp] theorem State.ovfCleared_queued (s : State) : s.ovfCleared.queued = s.queued := rfl
@[simp] theorem State.ovfCleared_todo (s : State) : s.ovfCleared.todo = s.todo := rfl
@[simp] theorem State.ovfCleared_agenda (s : State) : s.ovfCleared.agenda = s.agenda := rfl
@[simp] theorem State.ovfCleared_draws (s : State) : s.ovfCleared.draws = s.draws := rfl

/-! ## `State.setCell` -/

@[simp] theorem State.setCell_cfg (s : State) (i : Nat) (b : Byte) : (s.setCell i b).cfg = s.cfg := rfl
@[simp] theorem State.setCell_buf (s : State) (i : Nat) (b : Byte) : (s.setCell i b).buf = s.buf.write (i % s.cfg.rbSize) b := rfl
@[simp] theorem State.setCell_head (s : State) (i : Nat) (b : Byte) : (s.setCell i b).head = s.head := rfl
@[simp] theorem State.setCell_wr (s : State) (i : Nat) (b : Byte) : (s.setCell i b).wr = s.wr := rfl
@[simp] theorem State.setCell_tail (s : State) (i : Nat) (b : Byte) : (s.setCell i b).tail = s.tail := rfl
@[simp] theorem State.setCell_ovf (s : State) (i : Nat) (b : Byte) : (s.setCell i b).ovf = s.ovf := rfl
@[simp] theorem State.setCell_mode (s : State) (i : Nat) (b : Byte) : (s.setCell i b).mode = s.mode := rfl
@[simp] theorem State.setCell_encActive (s : State) (i : Nat) (b : Byte) : (s.setCell i b).encActive = s.encActive := rfl
@[simp] theorem State.setCell_encCsum (s : State) (i : Nat) (b : Byte) : (s.setCell i b).encCsum = s.encCsum := rfl
@[simp] theorem State.setCell_encHb (s : State) (i : Nat) (b : Byte) : (s.setCell i b).encHb = s.encHb := rfl
@[simp] theorem State.setCell_encCnt (s : State) (i : Nat) (b : Byte) : (s.setCell i b).encCnt = s.encCnt := rfl
@[simp] theorem State.setCell_encN (s : State) (i : Nat) (b : Byte) : (s.setCell i b).encN = s.encN := rfl
@[simp] theorem State.setCell_idleCnt (s : State) (i : Nat) (b : Byte) : (s.setCell i b).idleCnt = s.idleCnt := rfl
@[simp] theorem State.setCell_idleDone (s : State) (i : Nat) (b : Byte) : (s.setCell i b).idleDone = s.idleDone := rfl
@[simp] theorem State.setCell_syncRef (s : State) (i : Nat) (b : Byte) : (s.setCell i b).syncRef = s.syncRef := rfl
@[simp] theorem State.setCell_out (s : State) (i : Nat) (b : Byte) : (s.setCell i b).out = s.out := rfl
@[simp] theorem State.setCell_queued (s : State) (i : Nat) (b : Byte) : (s.setCell i b).queued = s.queued := rfl
@[simp] theorem State.setCell_todo (s : State) (i : Nat) (b : Byte) : (s.setCell i b).todo = s.todo := rfl
@[simp] theorem State.setCell_agenda (s : State) (i : Nat) (b : Byte) : (s.setCell i b).agenda = s.agenda := rfl
@[simp] theorem State.setCell_draws (s : State) (i : Nat) (b : Byte) : (s.setCell i b).draws = s.draws := rfl

/-! ## `State.before` -/

@[simp] theorem State.before_cfg (s : State) (ms : List Micro) : (s.before ms).cfg = s.cfg := rfl
@[simp] theorem State.before_buf (s : State) (ms : List Micro) : (s.before ms).buf = s.buf := rfl
@[simp] theorem State.before_head (s : State) (ms : List Micro) : (s.before ms).head = s.head := rfl
@[simp] theorem State.before_wr (s : State) (ms : List Micro) : (s.before ms).wr = s.wr := rfl
@[simp] theorem State.before_tail (s : State) (ms : List Micro) : (s.before ms).tail = s.tail := rfl
@[simp] theorem State.before_ovf (s : State) (ms : List Micro) : (s.before ms).ovf = s.ovf := rfl
@[simp] theorem State.before_mode (s : State) (ms : List Micro) : (s.before ms).mode = s.mode := rfl
@[simp] theorem State.before_encActive (s : State) (ms : List Micro) : (s.before ms).encActive = s.encActive := rfl
@[simp] theorem State.before_encCsum (s : State) (ms : List Micro) : (s.before ms).encCsum = s.encCsum := rfl
@[simp] theorem State.before_encHb (s : State) (ms : List Micro) : (s.before ms).encHb = s.encHb := rfl
@[simp] theorem State.before_encCnt (s : State) (ms : List Micro) : (s.before ms).encCnt = s.encCnt := rfl
@[simp] theorem State.before_encN (s : State) (ms : List Micro) : (s.before ms).encN = s.encN := rfl
@[simp] theorem State.before_idleCnt (s : State) (ms : List Micro) : (s.before ms).idleCnt = s.idleCnt := rfl
@[simp] theorem State.before_idleDone (s : State) (ms : List Micro) : (s.before ms).idleDone = s.idleDone := rfl
@[simp] theorem State.before_syncRef (s : State) (ms : List Micro) : (s.before ms).syncRef = s.syncRef := rfl
@[simp] theorem State.before_out (s : State) (ms : List Micro) : (s.before ms).out = s.out := rfl
@[simp] theorem State.before_queued (s : State) (ms : List Micro) : (s.before ms).queued = s.queued := rfl
@[simp] theorem State.before_todo (s : State) (ms : List Micro) : (s.before ms).todo = ms ++ s.todo := rfl
@[simp] theorem State.before_agenda (s : State) (ms : List Micro) : (s.before ms).agenda = s.agenda := rfl
@[simp] theorem State.before_draws (s : State) (ms : List Micro) : (s.before ms).draws = s.draws := rfl

/-! ## `State.consumed` -/

@[simp] theorem State.consumed_cfg (s : State) : s.consumed.cfg = s.cfg := rfl
@[simp] theorem State.consumed_buf (s : State) : s.consumed.buf = s.buf := rfl
@[simp] theorem State.consumed_head (s : State) : s.consumed.head = s.head := rfl
@[simp] theorem State.consumed_wr (s : State) : s.consumed.wr = s.wr := rfl
@[simp] theorem State.consumed_tail (s : State) : s.consumed.tail = s.inc s.tail := rfl
@[simp] theorem State.consumed_ovf (s : State) : s.consumed.ovf = s.ovf := rfl
@[simp] theorem State.consumed_mode (s : State) : s.consumed.mode = s.mode := rfl
@[simp] theorem State.consumed_encActive (s : State) : s.consumed.encActive = s.encActive := rfl
@[simp] theorem State.consumed_encCsum (s : State) : s.consumed.encCsum = s.encCsum := rfl
@[simp] theorem State.consumed_encHb (s : State) : s.consumed.encHb = s.encHb := rfl
@[simp] theorem State.consumed_encCnt (s : State) : s.consumed.encCnt = s.encCnt := rfl
@[simp] theorem State.consumed_encN (s : State) : s.consumed.encN = s.encN := rfl
@[simp] theorem State.consumed_idleCnt (s : State) : s.consumed.idleCnt = s.idleCnt := rfl
@[simp] theorem State.consumed_idleDone (s : State) : s.consumed.idleDone = s.idleDone := rfl
@[simp] theorem State.consumed_syncRef (s : State) : s.consumed.syncRef = s.syncRef := rfl
@[simp] theorem State.consumed_out (s : State) : s.consumed.out = s.out := rfl
@[simp] theorem State.consumed_queued (s : State) : s.consumed.queued = s.queued := rfl
@[simp] theorem State.consumed_todo (s : State) : s.consumed.todo = s.todo := rfl
@[simp] theorem State.consumed_agenda (s : State) : s.consumed.agenda = s.agenda := rfl
@[simp] theorem State.consumed_draws (s : State) : s.consumed.draws = s.draws := rfl

/-! ## `State.idleTicked` -/

@[simp] theorem State.idleTicked_cfg (s : State) : s.idleTicked.cfg = s.cfg := rfl
@[simp] theorem State.idleTicked_buf (s : State) : s.idleTicked.buf = s.buf := rfl
@[simp] theorem State.idleTicked_head (s : State) : s.idleTicked.head = s.head := rfl
@[simp] theorem State.idleTicked_wr (s : State) : s.idleTicked.wr = s.wr := rfl
@[simp] theorem State.idleTicked_tail (s : State) : s.idleTicked.tail = s.tail := rfl
@[simp] theorem State.idleTicked_ovf (s : State) : s.idleTicked.ovf = s.ovf := rfl
@[simp] theorem State.idleTicked_mode (s : State) : s.idleTicked.mode = s.mode := rfl
@[simp] theorem State.idleTicked_encActive (s : State) : s.idleTicked.encActive = s.encActive := rfl
@[simp] theorem State.idleTicked_encCsum (s : State) : s.idleTicked.encCsum = s.encCsum := rfl
@[simp] theorem State.idleTicked_encHb (s : State) : s.idleTicked.encHb = s.encHb := rfl
@[simp] theorem State.idleTicked_encCnt (s : State) : s.idleTicked.encCnt = s.encCnt := rfl
@[simp] theorem State.idleTicked_encN (s : State) : s.idleTicked.encN = s.encN := rfl
@[simp] theorem State.idleTicked_idleCnt (s : State) : s.idleTicked.idleCnt = satInc s.idleCnt := rfl
@[simp] theorem State.idleTicked_idleDone (s : State) : s.idleTicked.idleDone = s.idleDone := rfl
@[simp] theorem State.idleTicked_syncRef (s : State) : s.idleTicked.syncRef = s.syncRef := rfl
@[simp] theorem State.idleTicked_out (s : State) : s.idleTicked.out = s.out := rfl
@[simp] theorem State.idleTicked_queued (s : State) : s.idleTicked.queued = s.queued := rfl
@[simp] theorem State.idleTicked_todo (s : State) : s.idleTicked.todo = s.todo := rfl
@[simp] theorem State.idleTicked_agenda (s : State) : s.idleTicked.agenda = s.agenda := rfl
@[simp] theorem State.idleTicked_draws (s : State) : s.idleTicked.draws = s.draws := rfl

/-! ## `State.issuing` -/

@[simp] theorem State.issuing_cfg (s : State) (c : Command) : (s.issuing c).cfg = s.cfg := rfl
@[simp] theorem State.issuing_buf (s : State) (c : Command) : (s.issuing c).buf = s.buf := rfl
@[simp] theorem State.issuing_head (s : State) (c : Command) : (s.issuing c).head = s.head := rfl
@[simp] theorem State.issuing_wr (s : State) (c : Command) : (s.issuing c).wr = s.wr := rfl
@[simp] theorem State.issuing_tail (s : State) (c : Command) : (s.issuing c).tail = s.tail := rfl
@[simp] theorem State.issuing_ovf (s : State) (c : Command) : (s.issuing c).ovf = s.ovf := rfl
@[simp] theorem State.issuing_mode (s : State) (c : Command) : (s.issuing c).mode = s.mode := rfl
@[simp] theorem State.issuing_encActive (s : State) (c : Command) : (s.issuing c).encActive = s.encActive := rfl
@[simp] theorem State.issuing_encCsum (s : State) (c : Command) : (s.issuing c).encCsum = s.encCsum := rfl
@[simp] theorem State.issuing_encHb (s : State) (c : Command) : (s.issuing c).encHb = s.encHb := rfl
@[simp] theorem State.issuing_encCnt (s : State) (c : Command) : (s.issuing c).encCnt = s.encCnt := rfl
@[simp] theorem State.issuing_encN (s : State) (c : Command) : (s.issuing c).encN = s.encN := rfl
@[simp] theorem State.issuing_idleCnt (s : State) (c : Command) : (s.issuing c).idleCnt = s.idleCnt := rfl
@[simp] theorem State.issuing_idleDone (s : State) (c : Command) : (s.issuing c).idleDone = s.idleDone := rfl
@[simp] theorem State.issuing_syncRef (s : State) (c : Command) : (s.issuing c).syncRef = s.syncRef := rfl
@[simp] theorem State.issuing_out (s : State) (c : Command) : (s.issuing c).out = s.out := rfl
@[simp] theorem State.issuing_queued (s : State) (c : Command) : (s.issuing c).queued = s.queued := rfl
@[simp] theorem State.issuing_todo (s : State) (c : Command) : (s.issuing c).todo = [] := rfl
@[simp] theorem State.issuing_agenda (s : State) (c : Command) : (s.issuing c).agenda = .issue c :: s.agenda := rfl
@[simp] theorem State.issuing_draws (s : State) (c : Command) : (s.issuing c).draws = s.draws := rfl

end Sys2Proof.Machine
end

