-- ==== Sys2Proof/Laws/Micro.lean ====
section
/-! SUPPORT. What a micro-step of the poll context can change, and how `run` goes through an operation: one frame
lemma for `microStep`, one for `run`, and the equations that unfold `run` one micro-step at a time. -/

namespace Sys2Proof.Machine

/-! ## The schedule -/

theorem State.due_eq_false_of_quiet {s : State} (h : s.quiet = true) : s.due = false := by
  unfold State.quiet at h
  unfold State.due
  split <;> simp_all

theorem State.ticked_eq_self_of_quiet {s : State} (h : s.quiet = true) : s.ticked = s := by
  unfold State.quiet at h
  unfold State.ticked
  split <;> simp_all

/-- A passed micro-step changes the schedule only. -/
theorem State.ticked_eq (s : State) : ∃ es, s.ticked = { s with agenda := es } := by
  unfold State.ticked
  split
  · exact ⟨_, rfl⟩
  · exact ⟨_, rfl⟩
  · exact ⟨s.agenda, rfl⟩

/-- More free slots include fewer. -/
theorem State.roomFor_mono {s : State} {m n : Nat} (h : m ≤ n) (hn : s.roomFor n = true) : s.roomFor m = true := by
  cases hq : s.cfg.outqSize with
  | none => simp [State.roomFor, hq]
  | some k =>
    simp only [State.roomFor, hq, decide_eq_true_eq] at *
    exact Nat.le_trans (Nat.add_le_add_left h _) hn

/-- A push uses up one free slot. -/
theorem State.roomFor_pushed {s : State} {n : Nat} (b : Byte) (h : s.roomFor (n + 1) = true) :
    (s.pushed b).roomFor n = true := by
  cases hq : s.cfg.outqSize with
  | none => simp [State.roomFor, hq]
  | some k =>
    simp [State.roomFor, hq] at h ⊢
    exact decide_eq_true (by omega)

/-! ## Running -/

@[simp] theorem run_nil {n : Nat} {s : State} (h : s.todo = []) : run n s = .next s := by
  cases n with
  | zero => rfl
  | succ n => simp [run, h]

theorem run_stops {n : Nat} {s : State} (h : s.running = false) : run n s = .next s := by
  cases n with
  | zero => rfl
  | succ n =>
    simp only [run, h]
    split <;> simp

/-- One micro-step of a running operation. -/
theorem run_succ {n : Nat} {s t : State} {m : Micro} {rest : List Micro} (hr : s.running = true)
    (ht : s.todo = m :: rest) (hm : microStep m { s with todo := rest } = .next t) :
    run (n + 1) s = run n t.ticked := by
  simp [run, ht, hr, hm]

/-- An operation runs when no event is due and its next micro-step, if it pushes, finds a slot. -/
theorem State.running_of_quiet {s : State} {m : Micro} {rest : List Micro} (hq : s.quiet = true)
    (ht : s.todo = m :: rest) (hm : m.pushes = false ∨ s.roomFor 1 = true) : s.running = true := by
  have hd := State.due_eq_false_of_quiet hq
  rcases hm with hm | hm <;> simp [State.running, State.held, ht, hd, hm]

/-! ## Frames -/

/-- The states agree on all that the poll context does not write, and the second has pushed `o` more. -/
structure PollFrame (s t : State) : Prop where
  cfg  : t.cfg = s.cfg
  buf  : t.buf = s.buf
  head : t.head = s.head
  wr   : t.wr = s.wr
  mode : t.mode = s.mode
  out  : ∃ o, t.out = s.out ++ o

theorem PollFrame.refl (s : State) : PollFrame s s := ⟨rfl, rfl, rfl, rfl, rfl, [], by simp⟩

theorem PollFrame.trans {s t u : State} (h : PollFrame s t) (k : PollFrame t u) : PollFrame s u := by
  obtain ⟨o, ho⟩ := h.out
  obtain ⟨p, hp⟩ := k.out
  exact ⟨k.cfg.trans h.cfg, k.buf.trans h.buf, k.head.trans h.head, k.wr.trans h.wr, k.mode.trans h.mode,
    o ++ p, by rw [hp, ho, List.append_assoc]⟩

theorem pollFrame_drawn (s : State) : PollFrame s s.drawn := by
  unfold State.drawn
  split
  · exact .refl s
  · exact ⟨rfl, rfl, rfl, rfl, rfl, [], by simp⟩

theorem pollFrame_ticked (s : State) : PollFrame s s.ticked := by
  obtain ⟨es, h⟩ := s.ticked_eq
  rw [h]
  exact ⟨rfl, rfl, rfl, rfl, rfl, [], by simp⟩

/-- A micro-step of the poll context writes no part of the receive state, and takes no symbol back. -/
theorem microStep_pollFrame {m : Micro} {s t : State} (h : microStep m s = .next t) : PollFrame s t := by
  have quietly : ∀ {u : State}, u.cfg = s.cfg → u.buf = s.buf → u.head = s.head → u.wr = s.wr →
      u.mode = s.mode → u.out = s.out → PollFrame s u :=
    fun a b c d e f => ⟨a, b, c, d, e, [], by simp [f]⟩
  have byteOut : ∀ {u : State} {b : Byte}, u.cfg = s.cfg → u.buf = s.buf → u.head = s.head → u.wr = s.wr →
      u.mode = s.mode → u.out = s.out ++ [.byte b] → PollFrame s u :=
    fun a b c d e f => ⟨a, b, c, d, e, _, f⟩
  cases m with
  | readHead =>
    simp only [microStep, Host.Outcome.next.injEq] at h
    subst h
    unfold microReadHead
    split <;> exact quietly rfl rfl rfl rfl rfl rfl
  | readUnit h' =>
    simp only [microStep, microReadUnit, dispatchUnit, forwardData] at h
    repeat' split at h
    all_goals first
      | (cases h; exact quietly rfl rfl rfl rfl rfl rfl)
      | cases h
  | peekIdle h' =>
    simp only [microStep, Host.Outcome.next.injEq] at h
    subst h
    unfold microPeekIdle forwardData
    repeat' split
    all_goals exact quietly rfl rfl rfl rfl rfl rfl
  | skipIdle => cases h; exact quietly rfl rfl rfl rfl rfl rfl
  | takePseudo u =>
    simp only [microStep, Host.Outcome.next.injEq] at h
    subst h
    refine PollFrame.trans (t := s.consumed.drawn)
      (PollFrame.trans (quietly (u := s.consumed) rfl rfl rfl rfl rfl rfl) (pollFrame_drawn s.consumed)) ?_
    unfold microTakePseudo
    split <;> exact ⟨rfl, rfl, rfl, rfl, rfl, [], by simp⟩
  | peekStart h' u => cases h; exact quietly rfl rfl rfl rfl rfl rfl
  | takeStart h' u last =>
    simp only [microStep, Host.Outcome.next.injEq] at h
    subst h
    unfold microTakeStart
    split <;> exact quietly rfl rfl rfl rfl rfl rfl
  | readBody h' d =>
    simp only [microStep, Host.Outcome.next.injEq] at h
    subst h
    unfold microReadBody
    split <;> exact quietly rfl rfl rfl rfl rfl rfl
  | peekBody h' d b => cases h; exact quietly rfl rfl rfl rfl rfl rfl
  | takeBody h' d b last =>
    simp only [microStep, Host.Outcome.next.injEq] at h
    subst h
    unfold microTakeBody
    split <;> exact quietly rfl rfl rfl rfl rfl rfl
  | testAndClear =>
    simp only [microStep, Host.Outcome.next.injEq] at h
    subst h
    unfold microTestAndClear
    split <;> exact quietly rfl rfl rfl rfl rfl rfl
  | startFrame b => cases h; exact byteOut rfl rfl rfl rfl rfl rfl
  | push b => cases h; exact byteOut rfl rfl rfl rfl rfl rfl
  | pushStart b => cases h; exact byteOut rfl rfl rfl rfl rfl rfl
  | pushPayload b =>
    simp only [microStep, Host.Outcome.next.injEq] at h
    subst h
    unfold microPushPayload
    split <;> exact byteOut rfl rfl rfl rfl rfl rfl
  | pushSide => cases h; exact byteOut rfl rfl rfl rfl rfl rfl
  | pushCheck => cases h; exact byteOut rfl rfl rfl rfl rfl rfl
  | pushIdle => cases h; exact byteOut rfl rfl rfl rfl rfl rfl

/-- However far an operation runs, it writes no part of the receive state, and takes no symbol back. -/
theorem run_pollFrame {n : Nat} {s t : State} (h : run n s = .next t) : PollFrame s t := by
  induction n generalizing s with
  | zero => cases h; exact .refl _
  | succ n ih =>
    cases hto : s.todo with
    | nil => rw [run_nil hto] at h; cases h; exact .refl _
    | cons m rest =>
      cases hr : s.running with
      | false => rw [run_stops hr] at h; cases h; exact .refl _
      | true =>
        have h1 : PollFrame s { s with todo := rest } := ⟨rfl, rfl, rfl, rfl, rfl, [], by simp⟩
        cases hm : microStep m { s with todo := rest } with
        | next u =>
          rw [run_succ hr hto hm] at h
          exact (h1.trans (microStep_pollFrame hm)).trans ((pollFrame_ticked u).trans (ih h))
        | fault f => simp [run, hto, hr, hm] at h
        | refused r => simp [run, hto, hr, hm] at h

end Sys2Proof.Machine
end

