-- ==== Sys2Proof/Laws/PerInstr.lean ====
section
/-! SUPPORT. Per-instruction lemmas: the encoding of every instruction carries the op field that R94 gives its
operation. -/

namespace Sys2Proof.Laws.OpFieldAsTabled

/-- The op field `cw[15:12]` of an operation, from R94's table. -/
def opNumber : Instr → Nat
  | .start _   => 1
  | .send _    => 2
  | .endFrame  => 3
  | .rx _      => 4
  | .rxOvr _   => 4
  | .rxFe _    => 4
  | .rxFeOvr _ => 4
  | .poll      => 5
  | .tick _    => 6
  | .sync _    => 7
  | .reset     => 8

/-- The encoded word has that op field. -/
def Statement (i : Instr) : Prop := opField (encode i).word = opNumber i

theorem start (p : BitVec 4) : Statement (.start p) := by
  unfold Statement; revert p; decide

theorem send (b : Byte) : Statement (.send b) := by
  unfold Statement; revert b; decide +kernel

theorem endFrame : Statement .endFrame := by
  unfold Statement; decide

theorem rx (b : Byte) : Statement (.rx b) := by
  unfold Statement; revert b; decide +kernel

theorem rxOvr (b : Byte) : Statement (.rxOvr b) := by
  unfold Statement; revert b; decide +kernel

theorem rxFe (b : Byte) : Statement (.rxFe b) := by
  unfold Statement; revert b; decide +kernel

theorem rxFeOvr (b : Byte) : Statement (.rxFeOvr b) := by
  unfold Statement; revert b; decide +kernel

theorem poll : Statement .poll := by
  unfold Statement; decide

theorem tick (t : Bool) : Statement (.tick t) := by
  unfold Statement; revert t; decide

theorem sync (now : Nat) : Statement (.sync now) := by
  unfold Statement; show opField 0x7000 = 7; decide

theorem reset : Statement .reset := by
  unfold Statement; decide

end Sys2Proof.Laws.OpFieldAsTabled
end

