-- ==== Sys2Proof/Laws/Receive.lean ====
section
/-! SUPPORT. What a receive step can change: every operation of the Reception State Machine updates `buf`,
`head`, `wr`, `mode` and `ovf`, and nothing else. -/

namespace Sys2Proof.Machine

/-- The states agree on all that the Reception State Machine does not write. -/
structure SamePollSide (s t : State) : Prop where
  cfg       : t.cfg = s.cfg
  tail      : t.tail = s.tail
  encActive : t.encActive = s.encActive
  encCsum   : t.encCsum = s.encCsum
  encHb     : t.encHb = s.encHb
  encCnt    : t.encCnt = s.encCnt
  encN      : t.encN = s.encN
  idleCnt   : t.idleCnt = s.idleCnt
  idleDone  : t.idleDone = s.idleDone
  syncRef   : t.syncRef = s.syncRef
  out       : t.out = s.out
  queued    : t.queued = s.queued
  todo      : t.todo = s.todo
  agenda    : t.agenda = s.agenda
  draws     : t.draws = s.draws

/-- The only way a receive step builds a state: the receive side replaced, all else kept. -/
def State.withReceiveSide (s : State) (m : Memory) (h w : Nat) (md : Mode) (o : Bool) : State :=
  { s with buf := m, head := h, wr := w, mode := md, ovf := o }

theorem samePollSide_withReceiveSide (s : State) (m : Memory) (h w : Nat) (md : Mode) (o : Bool) :
    SamePollSide s (s.withReceiveSide m h w md o) := by
  constructor <;> rfl

theorem placeStart_receiveSide (b : Byte) (s : State) : ∃ m h w md o, placeStart b s = s.withReceiveSide m h w md o := by
  unfold placeStart
  split <;> exact ⟨_, _, _, _, _, rfl⟩

theorem inject_receiveSide (c : Byte) (s : State) : ∃ m h w md o, inject c s = s.withReceiveSide m h w md o := by
  unfold inject
  split <;> exact ⟨_, _, _, _, _, rfl⟩

theorem admitStart_receiveSide (b : Byte) (s : State) :
    ∃ m h w md o, admitStart b s = s.withReceiveSide m h w md o := by
  unfold admitStart
  split
  · exact ⟨_, _, _, _, _, rfl⟩
  · exact placeStart_receiveSide b s

theorem framingError_receiveSide (s : State) : ∃ m h w md o, framingError s = s.withReceiveSide m h w md o := by
  obtain ⟨m, h, w, md, o, e⟩ := inject_receiveSide rbMal (abandon s)
  exact ⟨m, h, w, md, o, e⟩

theorem overrun_receiveSide (b : Byte) (s : State) : ∃ m h w md o, overrun b s = s.withReceiveSide m h w md o := by
  obtain ⟨m, h, w, md, o, e⟩ := inject_receiveSide rbHovf (abandon s)
  unfold overrun
  split
  · obtain ⟨m', h', w', md', o', e'⟩ := admitStart_receiveSide b (inject rbHovf (abandon s))
    exact ⟨m', h', w', md', o', by rw [e', e]; rfl⟩
  · exact ⟨m, h, w, md, o, e⟩

theorem bodyWhileOpen_receiveSide (b : Byte) (s : State) :
    ∃ m h w md o, bodyWhileOpen b s = s.withReceiveSide m h w md o := by
  unfold bodyWhileOpen
  split
  · exact ⟨_, _, _, _, _, rfl⟩
  · split <;> exact ⟨_, _, _, _, _, rfl⟩

theorem startNoRoom_receiveSide (b : Byte) (n : Nat) (s : State) :
    ∃ m h w md o, startNoRoom b n s = s.withReceiveSide m h w md o := by
  unfold startNoRoom
  split
  · split <;> exact ⟨_, _, _, _, _, rfl⟩
  · exact ⟨_, _, _, _, _, rfl⟩

theorem startWhileOpen_receiveSide (b : Byte) (s : State) :
    ∃ m h w md o, startWhileOpen b s = s.withReceiveSide m h w md o := by
  unfold startWhileOpen
  split
  · obtain ⟨m, h, w, md, o, e⟩ := placeStart_receiveSide b (closeOpen s)
    exact ⟨m, h, w, md, o, e⟩
  · obtain ⟨m, h, w, md, o, e⟩ := startNoRoom_receiveSide b s.head (closeOpen s)
    exact ⟨m, h, w, md, o, e⟩

/-- Every receive step replaces the receive side of the state and keeps all else. -/
theorem rxByte_receiveSide (b : Byte) (fe ovr : Bool) (s : State) :
    ∃ m h w md o, rxByte b fe ovr s = s.withReceiveSide m h w md o := by
  unfold rxByte
  split
  · exact framingError_receiveSide s
  · split
    · exact overrun_receiveSide b s
    · split
      · exact bodyWhileOpen_receiveSide b s
      · exact ⟨_, _, _, _, _, rfl⟩
      · exact admitStart_receiveSide b s
      · exact startWhileOpen_receiveSide b s

/-- What a receive step leaves unchanged. -/
theorem rxByte_samePollSide (b : Byte) (fe ovr : Bool) (s : State) : SamePollSide s (rxByte b fe ovr s) := by
  obtain ⟨m, h, w, md, o, e⟩ := rxByte_receiveSide b fe ovr s
  exact e ▸ samePollSide_withReceiveSide s m h w md o

end Sys2Proof.Machine
end

