-- ==== Sys2Proof/Laws/Step.lean ====
section
/-! SUPPORT. What a step can do, said once: it goes on with the operation in progress, takes an arriving byte, takes
a drainer step, runs the next command, or finds nothing to do. And how an operation goes through its micro-steps
when no event falls inside it. -/

namespace Sys2Proof.Machine

/-- The four forms of a receive operation run one receive step. -/
theorem exec_rxInstr (b : Byte) (fe ovr : Bool) (s : State) :
    exec (rxInstr b fe ovr) s = .next (rxByte b fe ovr s) := by
  cases fe <;> cases ovr <;> rfl

/-- Everything a step that answers a next state can have done. -/
theorem step_cases {s t : State} (h : step s = .next t) :
    (s.running = true ∧ resume s = .next t) ∨
    (∃ n b fe ovr es, s.agenda = .arrive n b fe ovr :: es ∧ t = rxByte b fe ovr { s with agenda := es }) ∨
    (∃ n es, s.agenda = .drain n :: es ∧ t = { s with agenda := es }.drained) ∨
    (∃ c es i, s.todo = [] ∧ s.agenda = .issue c :: es ∧ decode c = .ok i ∧
      exec i { s with agenda := es } = .next t) ∨
    (s.running = false ∧ t = s) := by
  unfold step at h
  split at h
  · exact .inl ⟨‹_›, h⟩
  · rename_i hr
    have hr : s.running = false := by simpa using hr
    split at h
    · cases h; exact .inr (.inr (.inr (.inr ⟨hr, rfl⟩)))
    · rename_i n b fe ovr es ha
      cases h; exact .inr (.inl ⟨n, b, fe, ovr, es, ha, rfl⟩)
    · rename_i n es ha
      cases h; exact .inr (.inr (.inl ⟨n, es, ha, rfl⟩))
    · rename_i c es ha
      split at h
      · rename_i ht
        unfold fetch at h
        cases hd : decode c with
        | error e => simp [hd] at h
        | ok i =>
          simp only [hd] at h
          exact .inr (.inr (.inr (.inl ⟨c, es, i, by simpa using ht, ha, hd, h⟩)))
      · cases h; exact .inr (.inr (.inr (.inr ⟨hr, rfl⟩)))

/-- One micro-step of an operation inside which no event falls. -/
theorem run_succ_of_quiet {n : Nat} {s t : State} {m : Micro} {rest : List Micro} (hq : s.quiet = true)
    (ht : s.todo = m :: rest) (hm : m.pushes = false ∨ s.roomFor 1 = true)
    (hs : microStep m { s with todo := rest } = .next t) (hqt : t.quiet = true) :
    run (n + 1) s = run n t := by
  rw [run_succ (State.running_of_quiet hq ht hm) ht hs, State.ticked_eq_self_of_quiet hqt]

end Sys2Proof.Machine
end

