-- ==== Sys2Proof/Tests/Slice0.lean ====
section
/-! SUPPORT. The model's own tests: ill-formed terms refused; words written out from 30_encoding.md decoded; one
step per operation against 95_test_vectors.md (each names its vector); and, for every statement with hypotheses,
a concrete state and operands that meet them, clause by clause at the ends of the ranges. -/

namespace Sys2Proof.Tests

open Sys2Proof Sys2Proof.Machine

/-! ## Helpers -/

/-- The state a step answers, if it answers one. -/
def next? (o : Host.Outcome State Fault Refusal) : Option State :=
  match o with
  | .next t    => some t
  | .fault _   => none
  | .refused _ => none

/-- The fault a step answers, if it answers one. -/
def fault? (o : Host.Outcome State Fault Refusal) : Option Fault :=
  match o with
  | .next _    => none
  | .fault f   => some f
  | .refused _ => none

/-- The refusal a step answers, if it answers one. -/
def refusal? (o : Host.Outcome State Fault Refusal) : Option Refusal :=
  match o with
  | .next _    => none
  | .fault _   => none
  | .refused r => some r

/-- The state after these bytes have arrived without errors in a block with the default parameters. -/
def received (bs : List Byte) : State := bs.foldl (fun s b => rxByte b false false s) State.reset

/-- The command word `w` is the next thing the block takes. -/
def word (s : State) (w : Nat) : State := s.withFetchWord 16 w

/-- The receive side of a state: `head`, `wr`, `tail`, `mode`, `ovf`. -/
def cursors (s : State) : Nat × Nat × Nat × Mode × Bool := (s.head, s.wr, s.tail, s.mode, s.ovf)

/-! ## Well-formedness: the one check refuses an ill-formed term -/

theorem test_wellFormed_sync_too_wide : (Instr.sync 0x10000).wellFormed Config.vectors = false := by decide

theorem test_wellFormed_sync_widest : (Instr.sync 0xFFFF).wellFormed Config.vectors = true := by decide

/-! ## Decoding words written out bit by bit (R94; opcode_table.json "encoding") -/

theorem test_decode_start : decodeTableWord 16 0b0001000000001111 = some (.start 15) := by decide

theorem test_decode_send : decodeTableWord 16 0b0010000010000001 = some (.send 0x81) := by decide

theorem test_decode_end : decodeTableWord 16 0b0011000000000000 = some .endFrame := by decide

theorem test_decode_rx : decodeTableWord 16 0b0100000010000001 = some (.rx 0x81) := by decide

theorem test_decode_rxOvr : decodeTableWord 16 0b0100000101111110 = some (.rxOvr 0x7E) := by decide

theorem test_decode_rxFe : decodeTableWord 16 0b0100001010100101 = some (.rxFe 0xA5) := by decide

theorem test_decode_rxFeOvr : decodeTableWord 16 0b0100001111111111 = some (.rxFeOvr 0xFF) := by decide

theorem test_decode_poll : decodeTableWord 16 0b0101000000000000 = some .poll := by decide

theorem test_decode_tick :
    decodeTableWord 16 0b0110000000000000 = some (.tick false) ∧
    decodeTableWord 16 0b0110000000000001 = some (.tick true) := by decide

theorem test_decode_sync : decode ⟨0b0111000000000000, 0x0800⟩ = .ok (.sync 0x0800) := by decide

theorem test_decode_reset : decodeTableWord 16 0b1000000000000000 = some .reset := by decide

/-- F7 to F13: reserved op fields, and a must-be-0 bit set. -/
theorem test_decode_reserved :
    (∀ op ∈ [0x0, 0x9, 0xA, 0xB, 0xC, 0xD, 0xE, 0xF], decodeTableWord 16 (op * 0x1000) = none) ∧
    (∀ w ∈ [0x1010, 0x2141, 0x3001, 0x5001, 0x7001, 0x8001, 0x4400, 0x6002], decodeTableWord 16 w = none) := by
  decide

/-! ## Single steps -/

/-- E17: START 3 from reset. -/
theorem test_start :
    (next? (step (word State.reset 0x1003))).map (fun t => (t.out, t.encActive, t.encCsum)) =
      some ([.byte 0x83], true, 0x83) := by decide

/-- E20: the second START restarts the encoder without a fault. -/
theorem test_start_restarts :
    (next? (step (word { State.reset with encActive := true, encCsum := 0xC2, encCnt := 1, encN := 1 } 0x1004))).map
      (fun t => (t.out, t.encCsum, t.encCnt, t.encN)) = some ([.byte 0x84], 0x84, 0, 0) := by decide

/-- E18: SEND FF after START 0. -/
theorem test_send :
    (next? (step (word { State.reset with encActive := true, encCsum := 0x80 } 0x20FF))).map
      (fun t => (t.out, t.encHb, t.encCnt, t.encCsum)) = some ([.byte 0x7F], 1, 1, 0x7F) := by decide

/-- E6, E21: the 7th SEND of a run flushes the side-channel byte 7F. -/
theorem test_send_flushes :
    (next? (step (word { State.reset with encActive := true, encHb := 0x3F, encCnt := 6, encN := 6 } 0x2086))).map
      (fun t => (t.out, t.encHb, t.encCnt, t.encN)) = some ([.byte 0x06, .byte 0x7F], 0, 0, 7) := by decide

/-- E1: END after START 3, SEND 41. -/
theorem test_end :
    (next? (step (word { State.reset with encActive := true, encCsum := 0xC2, encCnt := 1, encN := 1 } 0x3000))).map
      (fun t => (t.out, t.encActive)) = some ([.byte 0x00, .byte 0x42], false) := by decide

/-- F2: END with no frame open. -/
theorem test_end_fault : fault? (step (word State.reset 0x3000)) = some (.encNotStarted .endFrame) := by decide

/-- X12: the start byte 83 closes the frame A5 10 00 35. -/
theorem test_rx_closes :
    (next? (step (word (received [0xA5, 0x10, 0x00, 0x35]) 0x4083))).map cursors =
      some (4, 5, 0, .opened, false) := by decide

/-- X16: an oversized frame closed by a start byte of address 7. -/
theorem test_rx_oversized :
    (next? (step (word (received [0x83, 1, 1, 1, 1, 1, 1]) 0x40F4))).map (fun t => (cursors t, t.cell 0)) =
      some ((1, 1, 0, .discard, false), 0xF3) := by decide

/-- X6: an overrun whose retrieved byte is a start byte. -/
theorem test_rxOvr :
    (next? (step (word State.reset 0x4183))).map (·.buf) = some [(0, 0xF5), (1, 0x83)] ∧
    (next? (step (word State.reset 0x4183))).map cursors = some (1, 2, 0, .opened, false) := by decide

/-- X8: the retrieved byte has address 7. -/
theorem test_rxOvr_reserved :
    (next? (step (word (received [0x83]) 0x41F4))).map (·.buf) = some [(0, 0xF5), (1, 0xF3)] ∧
    (next? (step (word (received [0x83]) 0x41F4))).map cursors = some (2, 2, 0, .discard, false) := by decide

/-- X5: a framing error abandons the open frame 83 41. -/
theorem test_rxFe :
    (next? (step (word (received [0x83, 0x41]) 0x4200))).map (·.buf) = some [(0, 0xF2), (1, 0x41)] ∧
    (next? (step (word (received [0x83, 0x41]) 0x4200))).map cursors = some (1, 1, 0, .discard, false) := by decide

/-- X20: the code has no room. -/
theorem test_rxFe_no_room :
    (next? (step (word { received [0x83, 1, 2, 0x84, 1, 2, 3, 0x85] with ovf := false } 0x4200))).map cursors =
      some (7, 7, 0, .discard, true) := by decide

/-- X10: the framing error wins over the overrun. -/
theorem test_rxFeOvr :
    (next? (step (word State.reset 0x4385))).map (·.buf) = some [(0, 0xF2)] ∧
    (next? (step (word State.reset 0x4385))).map cursors = some (1, 1, 0, .discard, false) := by decide

/-- Y1: a frame relayed, its checksum repaired. -/
theorem test_poll :
    (next? (step (word (received [0xA5, 0x10, 0x00, 0x35, 0x83]) 0x5000))).map (fun t => (t.out, cursors t)) =
      some (symbols [0xB5, 0x10, 0x00, 0x25], 4, 5, 4, .opened, false) := by decide +kernel

/-- Y24: a unit that begins with a body byte. -/
theorem test_poll_fault :
    fault? (step (word { State.reset with buf := [(0, 0x10)], head := 1, wr := 1 } 0x5000)) =
      some .bufferInvariant := by decide

/-- I1: the third TICK 1. -/
theorem test_tick :
    (next? (step (word { State.reset with idleCnt := 2 } 0x6001))).map (fun t => (t.out, t.idleCnt, t.idleDone)) =
      some ([.byte 0x80], 3, true) := by decide

/-- I4: the count saturates, and with the line busy nothing is sent. -/
theorem test_tick_saturates :
    (next? (step (word { State.reset with idleCnt := 255 } 0x6000))).map (fun t => (t.out, t.idleCnt, t.idleDone)) =
      some ([], 255, false) := by decide

/-- S4: the pause across a rollover of the counter. -/
theorem test_sync :
    (next? (exec (.sync 0x0800) { State.reset with syncRef := 0xF800 })).map (fun t => (t.out, t.syncRef)) =
      some ([.gap], 0x0800) := by decide

/-- S1: one count too early. -/
theorem test_sync_early :
    (next? (exec (.sync 0x0FFF) State.reset)).map (fun t => (t.out, t.syncRef)) = some ([], 0) := by decide

/-- R-2: RESET forgets the buffer's units and the pending overflow; the pushed symbols stay (R263). -/
theorem test_reset :
    (next? (step (word { received [0x83, 1, 2, 0x84, 1, 2, 3, 4] with out := [.byte 0x83] } 0x8000))).map
      (fun t => (t.out, cursors t)) = some ([.byte 0x83], 0, 0, 0, .discard, false) := by decide

/-- R22: no cell has been written, and every cell still reads as a byte. -/
theorem test_unlisted_cell : State.reset.cell 7 = unlistedCell ∧ State.reset.buf = [] := by decide

/-- A cell written with what an unlisted cell holds is listed no more. -/
theorem test_write_canonical :
    Memory.write [(1, 0x83), (2, 0x41)] 2 unlistedCell = [(1, 0x83)] ∧
    (Memory.write [(1, 0x83), (2, 0x41)] 2 unlistedCell).read 2 = unlistedCell := by decide

/-- R87: the received side-channel byte 02 is folded into the checksum, its bit 1 belonging to no payload byte. -/
theorem test_decodeFrame_received_side_byte :
    decodeFrame [0x83, 0x41, 0x02, 0x40] = some (0, 3, [0x41]) ∧ decodeFrame [0x83, 0x41, 0x02, 0x42] = none := by
  decide

/-- E5 and E8, read back. -/
theorem test_decodeFrame :
    decodeFrame [0x83, 0x41, 0x42, 0x02, 0x02] = some (0, 3, [0x41, 0xC2]) ∧
    decodeFrame [0x8F, 0x74, 0x75, 0x76, 0x77, 0x78, 0x79, 0x7A, 0x7F, 0x7B, 0x7C, 0x7D, 0x7E, 0x7F, 0x1F, 0x6F] =
      some (0, 15, [0xF4, 0xF5, 0xF6, 0xF7, 0xF8, 0xF9, 0xFA, 0xFB, 0xFC, 0xFD, 0xFE, 0xFF]) := by decide

/-- F7: a reserved command word. -/
theorem test_step_refuses : refusal? (step (word State.reset 0x0000)) = some .reservedCommand := by decide

/-- V1: the byte 04 arrives after the head snapshot; the open frame is evicted, and the call goes on where it was. -/
theorem test_arrive_preempts :
    (next? (step { received [0x83, 1, 2, 0x84, 1, 2, 3] with
      todo := [.readUnit 3], agenda := [.arrive 0 0x04 false false] })).map (fun t => (cursors t, t.todo)) =
      some ((3, 3, 0, .discard, true), [.readUnit 3]) := by decide

/-! ## Witnesses: the hypotheses of the statements can be met, clause by clause -/

/-- A block whose outgoing queue of one byte is full. -/
def fullQueue : State :=
  { State.reset with cfg := { Config.vectors with outqSize := some 1 }, out := [.byte 0x83], queued := 1 }

/-- A block with a frame open in the encoder. -/
def encoding (cnt n : Nat) : State := { State.reset with encActive := true, encCnt := cnt, encN := n }

/-- A full buffer: closed units in seven cells. -/
def fullBuffer : State := received [0x83, 1, 2, 0x84, 1, 2, 3, 0x85]

theorem witness_ReservedCommandWordsAreRefused :
    (State.reset.issuing ⟨0xFFFF, 0⟩).todo = [] ∧ (State.reset.issuing ⟨0xFFFF, 0⟩).agenda = [.issue ⟨0xFFFF, 0⟩] ∧
    refusal? (step (State.reset.issuing ⟨0x8FFF, 0⟩)) = some .reservedCommand ∧
    refusal? (step (State.reset.issuing ⟨0x9000, 0⟩)) = some .reservedCommand ∧
    refusal? (step (State.reset.issuing ⟨0x8000, 0⟩)) = none := by decide

theorem witness_EncodeInvertsDecode : decode ⟨0x7000, 5⟩ = .ok (.sync 5) := by decide

theorem witness_StepRunsTheDecodedCommand :
    (State.reset.issuing ⟨0x6001, 0⟩).todo = [] ∧ (State.reset.issuing ⟨0x6001, 0⟩).agenda = [.issue ⟨0x6001, 0⟩] ∧
    decode ⟨0x6001, 0⟩ = .ok (.tick true) := by decide

theorem witness_ResetStateMeetsInvariant :
    Config.vectors.Legal ∧ Inv State.reset ∧
    Config.Legal { Config.vectors with rbSize := 3, outqSize := some 1 } ∧
    Config.Legal { Config.vectors with rbSize := 256, mgmtSoftOrder := .either } ∧
    Memory.fits Config.vectors [] ∧ Memory.fits Config.vectors [(0, 0x83), (7, 0xFF)] :=
  ⟨by decide, by decide, by decide, by decide, by decide, by decide⟩

theorem witness_ResetLeavesTheRest : (next? (exec .reset (received [0x83]))).isSome = true := by decide

theorem witness_StartBeginsFrame :
    Ready State.reset ∧ State.reset.roomFor 1 = true ∧
    { fullQueue with queued := 0 }.roomFor 1 = true ∧ Ready (encoding 3 3) := by decide

theorem witness_SendAddsPayloadByte :
    State.reset.encActive = false ∧
    ((encoding 5 12).encActive = true ∧ (encoding 5 12).encN = 12) ∧
    (Ready (encoding 4 11) ∧ (encoding 4 11).encActive = true ∧ (encoding 4 11).encN ≠ 12 ∧
      (encoding 4 11).encCnt + 1 ≠ 7 ∧ (encoding 4 11).roomFor 1 = true) ∧
    (Ready (encoding 6 6) ∧ (encoding 6 6).encActive = true ∧ (encoding 6 6).encN ≠ 12 ∧
      (encoding 6 6).encCnt + 1 = 7 ∧ (encoding 6 6).roomFor 2 = true) := by decide

theorem witness_EndFinishesFrame :
    State.reset.encActive = false ∧
    (Ready (encoding 0 7) ∧ (encoding 0 7).encActive = true ∧ (encoding 0 7).encCnt = 0 ∧
      (encoding 0 7).roomFor 1 = true) ∧
    (Ready (encoding 6 6) ∧ (encoding 6 6).encActive = true ∧ (encoding 6 6).encCnt ≠ 0 ∧
      (encoding 6 6).roomFor 2 = true) := by decide

theorem witness_FrameOpsPushTheWireFrame :
    (List.replicate 12 (0xFF : Byte)).length ≤ 12 ∧ Ready State.reset ∧
    State.reset.roomFor (encodeFrame 0 15 (List.replicate 12 0xFF)).length = true := by decide

theorem witness_EncoderPushesBodyBytesOnly :
    (next? (exec (.send 0xFF) (encoding 6 6))).isSome = true ∧
    (next? (exec .endFrame (encoding 6 6))).isSome = true := by decide

theorem witness_PollContextLeavesReceiveState :
    isReceive .poll = false ∧ (next? (exec .poll (received [0x93, 0x80]))).isSome = true ∧
    isReceive (.tick true) = false ∧ (next? (exec (.tick true) State.reset)).isSome = true := by decide

theorem witness_ReceiveStepCommutesWithOriginating :
    isOriginating (.start 3) = true ∧ isOriginating (.sync 0) = true := by decide

/-- The Idle Frame due at the threshold and at the saturated count; not due, with the queue full. -/
theorem witness_TickCountsAndSendsIdleFrame :
    (∀ n ∈ [(2 : Byte), 255],
      let s := { State.reset with idleCnt := n }
      s.cfg.idleThreshold ≤ min (s.idleCnt.toNat + 1) 255 ∧ s.idleDone = false ∧ s.encActive = false ∧
      Ready s ∧ s.roomFor 1 = true) ∧
    (¬ fullQueue.cfg.idleThreshold ≤ min (fullQueue.idleCnt.toNat + 1) 255 ∧ fullQueue.roomFor 1 = false) := by
  decide

theorem witness_IdleFrameSentOnceAtThreshold :
    State.reset.cfg.Legal ∧ Ready State.reset ∧ State.reset.roomFor 1 = true ∧ State.reset.idleCnt = 0 ∧
    State.reset.idleDone = false ∧ State.reset.encActive = false ∧
    fullQueue.cfg.Legal ∧ Ready fullQueue ∧ 2 < fullQueue.cfg.idleThreshold := by decide

theorem witness_SyncTakesDuePause :
    Instr.wellFormed State.reset.cfg (.sync 0xFFFF) = true ∧ Instr.wellFormed State.reset.cfg (.sync 0) = true ∧
    (encoding 0 0).encActive = true ∧ State.reset.encActive = false := by decide

theorem witness_SyncMeasuresElapsedAcrossRollover :
    let s := { State.reset with syncRef := 0xFFFF }
    s.encActive = false ∧ s.syncRef < 2 ^ s.cfg.timerWidth ∧ 0x1000 < 2 ^ s.cfg.timerWidth := by decide

theorem witness_OverrunRow :
    fullBuffer.inc fullBuffer.head = fullBuffer.tail ∧
    (State.reset.inc State.reset.head ≠ State.reset.tail ∧ (0x7F : Byte)[7] = false) ∧
    (let s := received [0x83, 1, 2, 3, 4, 5, 0x84]
     s.inc s.head ≠ s.tail ∧ (0x80 : Byte)[7] = true ∧ s.inc (s.inc s.head) = s.tail) ∧
    (State.reset.inc (State.reset.inc State.reset.head) ≠ State.reset.tail ∧
      (0xFF : Byte).extractLsb' 4 3 = (7 : BitVec 3) ∧ (0xEF : Byte).extractLsb' 4 3 ≠ (7 : BitVec 3)) := by decide

theorem witness_BodyAppendRow :
    let s := received [0x83, 1, 2, 3, 4, 5]
    (0x7F : Byte)[7] = false ∧ s.mode = .opened ∧ s.inc s.wr ≠ s.tail := by decide

theorem witness_BodyOversizeRow :
    let s := received [0x83, 1, 2, 3, 4, 5, 6]
    (0x00 : Byte)[7] = false ∧ s.mode = .opened ∧ s.inc s.wr = s.tail ∧ s.tail = s.head := by decide

theorem witness_BodyEvictRow :
    let s := received [0x80, 0x84, 2, 3, 4, 5, 6]
    (0x00 : Byte)[7] = false ∧ s.mode = .opened ∧ s.inc s.wr = s.tail ∧ s.tail ≠ s.head := by decide

theorem witness_DiscardedBodyRow : (0x7F : Byte)[7] = false ∧ State.reset.mode = .discard := by decide

theorem witness_StartInDiscardRow :
    ((0x80 : Byte)[7] = true ∧ fullBuffer.mode = .discard ∧ fullBuffer.inc fullBuffer.head = fullBuffer.tail) ∧
    ((0xF0 : Byte)[7] = true ∧ State.reset.mode = .discard ∧ State.reset.inc State.reset.head ≠ State.reset.tail ∧
      (0xF0 : Byte).extractLsb' 4 3 = (7 : BitVec 3) ∧ (0xEF : Byte).extractLsb' 4 3 ≠ (7 : BitVec 3)) := by decide

theorem witness_StartWhileOpenRoomRow :
    let s := received [0x83, 1, 2, 3, 4, 5]
    (0x80 : Byte)[7] = true ∧ s.mode = .opened ∧ s.inc s.wr ≠ s.tail ∧
    (0xF0 : Byte).extractLsb' 4 3 = (7 : BitVec 3) ∧ (0xEF : Byte).extractLsb' 4 3 ≠ (7 : BitVec 3) := by decide

/-- The third clause's `inc i = tail` needs a buffer of two cells, smaller than R6 allows (R173). -/
theorem witness_StartWhileOpenNoRoomRow :
    (let s := received [0x83, 1, 2, 3, 4, 5, 6]
     (0x80 : Byte)[7] = true ∧ s.mode = .opened ∧ s.inc s.wr = s.tail ∧ s.head = s.tail ∧
      s.inc (s.inc s.tail) ≠ s.tail ∧ (0xF0 : Byte).extractLsb' 4 3 = (7 : BitVec 3) ∧
      (0xEF : Byte).extractLsb' 4 3 ≠ (7 : BitVec 3)) ∧
    (let s := { State.reset with cfg := { Config.vectors with rbSize := 2 }, wr := 1, mode := .opened }
     s.inc s.wr = s.tail ∧ s.head = s.tail ∧ s.inc (s.inc s.tail) = s.tail) ∧
    (let s := received [0x80, 0x84, 2, 3, 4, 5, 6]
     s.mode = .opened ∧ s.inc s.wr = s.tail ∧ s.head ≠ s.tail) := by decide

theorem witness_ReceiveStepKeepsBufferInvariant :
    BufferOk State.reset ∧ BufferOk fullBuffer ∧ BufferOk (received [0x83, 1, 2, 3, 4, 5, 6]) ∧
    AtUnit State.reset ∧ AtUnit fullBuffer :=
  ⟨by decide, by decide, by decide, by decide, by decide⟩

theorem witness_ReceiveStepStoresOutsideClosedRegion :
    BufferOk (received [0x80, 0x84, 2]) ∧
    (next? (exec (rxInstr 0x41 false false) (received [0x80, 0x84, 2]))).isSome = true := by decide

theorem witness_PollReportsOverflowOnEmptyBuffer :
    (let s := State.reset
     Ready s ∧ s.encActive = false ∧ s.tail = s.head ∧ s.ovf = false) ∧
    (let s := { fullQueue with ovf := true, queued := 0, cfg := { Config.vectors with outqSize := some 4 } }
     Ready s ∧ s.encActive = false ∧ s.tail = s.head ∧ s.ovf = true ∧ s.roomFor 4 = true) := by decide

/-- Each pseudo-frame code at `tail`, with a report pending and not. -/
theorem witness_PollEmitsManagementFrame :
    ∀ u ∈ [(0xF2 : Byte), 0xF3, 0xF5], ∀ o ∈ [false, true],
      let s := { State.reset with buf := [(0, u)], head := 1, wr := 1, ovf := o }
      Ready s ∧ s.encActive = false ∧ s.tail ≠ s.head ∧ s.cell s.tail = u ∧ s.roomFor 8 = true := by decide

theorem witness_PollConsumesIdleUnits :
    let s := received [0x80, 0x80, 0x83]
    Inv s ∧ Ready s ∧ s.encActive = false ∧ s.ovf = false ∧ s.closedCells = [0x80, 0x80] := by decide

/-- X18's state: the unit `83 01 02`, an overflow pending. -/
def dataUnit : State := { received [0x83, 1, 2, 0x84, 1, 2, 3, 4] with ovf := true }

/-- Y5's lone start byte, here before another unit. -/
def loneStart : State := received [0x93, 0xEF, 0x80]

theorem witness_PollForwardsDataUnit :
    (Inv dataUnit ∧ Ready dataUnit ∧ dataUnit.encActive = false ∧ dataUnit.closedCells = 0x83 :: ([1, 2] ++ []) ∧
      (∀ x ∈ [(1 : Byte), 2], x[7] = false) ∧ ([1, 2] : List Byte) = [1] ++ [2] ∧ dataUnit.roomFor 7 = true) ∧
    (Inv loneStart ∧ Ready loneStart ∧ loneStart.encActive = false ∧ loneStart.closedCells = 0x93 :: ([] ++ [0xEF]) ∧
      (0xEF : Byte)[7] = true ∧ loneStart.roomFor 1 = true) ∧
    ∀ u ∈ [(0x80 : Byte), 0x83, 0x93, 0xEF], 0x80 ≤ u.toNat ∧ u.toNat ≤ 0xEF :=
  ⟨⟨by decide, by decide, by decide, by decide, by decide, rfl, by decide⟩,
    ⟨by decide, by decide, by decide, by decide, by decide, by decide⟩, by decide⟩

/-- An Idle unit before a pseudo unit, with an overflow pending, under either. -/
def idleThenCode : State :=
  { received [0x80, 0xF0, 0x84] with cfg := { Config.vectors with mgmtSoftOrder := .either }, ovf := true }

theorem witness_PollRefinesWholeUnitRelay :
    (let s := received [0x80, 0x83, 0x41, 0x00, 0x42, 0x84]
     Inv s ∧ Ready s ∧ s.encActive = false ∧ s.cfg.mgmtSoftOrder = .after ∧ s.roomFor 20 = true) ∧
    (Inv idleThenCode ∧ Ready idleThenCode ∧ idleThenCode.encActive = false ∧
      dropIdle idleThenCode.closedCells = [0xF3] ∧ idleThenCode.roomFor 8 = true) :=
  ⟨by decide, by decide, by decide, by decide, by decide, by decide⟩

/-- Y24's body byte, and the unassigned codes at the ends of their ranges. -/
theorem witness_PollFaults :
    (encoding 0 0).encActive = true ∧
    ∀ u ∈ [(0x00 : Byte), 0x7F, 0xF0, 0xF1, 0xF4, 0xF6, 0xFF],
      let s := { State.reset with buf := [(0, u)], head := 1, wr := 1 }
      Ready s ∧ s.encActive = false ∧ s.tail ≠ s.head ∧ s.cell s.tail = u ∧
      (u[7] = false ∨ 0xF0 ≤ u.toNat ∧ u ≠ 0xF2 ∧ u ≠ 0xF3 ∧ u ≠ 0xF5) := by decide

/-- V2's schedule. -/
theorem witness_RelayedUnitIndependentOfArrivals :
    let es : List Event := [.arrive 6 0x04 false false]
    let s := { received [0x83, 1, 2, 0x84, 1, 2, 3] with agenda := .issue ⟨0x5000, 0⟩ :: es }
    Inv s ∧ s.todo = [] ∧ s.encActive = false ∧ s.closedCells = 0x83 :: [1, 2] ∧ isLegalStart 0x83 = true ∧
    onlyAsync es = true ∧ (next? (Host.Core.run Sys2Proof.core 1 s)).isSome = true := by decide

theorem witness_OperationInProgressEnds :
    let s := { received [0x83, 1, 2, 0x84, 1, 2, 3] with todo := [.readUnit 3], agenda := [.arrive 0 4 false false] }
    Inv s ∧ s.cfg.outqSize = none ∧ onlyAsync s.agenda = true := by decide

theorem witness_SideChannelByteBits : (List.replicate 7 (0x80 : Byte)).length ≤ 7 := by decide

theorem witness_WireFrame : (List.replicate 12 (0x80 : Byte)).length ≤ 12 ∧ ([] : List Byte).length ≤ 12 := by decide

/-- Also for side-channel bits that no payload byte has. -/
theorem witness_RelayKeepsFrameConsistent :
    decodeFrame [0xE3, 0x41, 0x02, 0x20] = some (6, 3, [0x41]) ∧ (6 : BitVec 3) ≠ 7 := by decide

/-- A frame of six cells in a buffer of eight. -/
theorem witness_ReceivedFrameIsRelayedOneHopOn :
    (6 : BitVec 3) ≠ 7 ∧ ([0x80, 0x81, 0x82] : List Byte).length ≤ 12 ∧ isStart 0xFF = true ∧
    Inv State.reset ∧ Ready State.reset ∧ State.reset.encActive = false ∧ State.reset.mode = .discard ∧
    State.reset.tail = State.reset.head ∧ State.reset.ovf = false ∧
    (encodeFrame 6 15 [0x80, 0x81, 0x82]).length + 2 ≤ State.reset.cfg.rbSize ∧
    State.reset.roomFor (encodeFrame 6 15 [0x80, 0x81, 0x82]).length = true :=
  ⟨by decide, by decide, by decide, by decide, by decide, rfl, rfl, rfl, rfl, by decide, by decide⟩

theorem witness_OversizedFrameBecomesMalformed :
    let s := State.reset
    isLegalStart 0x83 = true ∧ (∀ c ∈ List.replicate 6 (1 : Byte), isBody c = true) ∧ isLegalStart 0xEF = true ∧
    BufferOk s ∧ s.mode = .discard ∧ s.tail = s.head ∧ s.ovf = false ∧
    s.cfg.rbSize - 1 ≤ (List.replicate 6 (1 : Byte)).length + 1 := by decide

theorem witness_FrameCrossesSevenBoards :
    let c := { Config.vectors with rbSize := 18 }
    c.Legal ∧ 18 ≤ c.rbSize ∧ c.outqSize = none ∧ Memory.fits c [(17, 0xFF)] := by decide

theorem witness_StepKeepsInvariant :
    Inv (received [0xA5, 0x10, 0x00, 0x35, 0x83]) ∧
    (next? (step (word (received [0xA5, 0x10, 0x00, 0x35, 0x83]) 0x5000))).isSome = true ∧
    Inv (word (received [0xA5, 0x10, 0x00, 0x35, 0x83]) 0x5000) :=
  ⟨by decide, by decide, by decide⟩

theorem witness_StepAnswers :
    (next? (step (word State.reset 0x1003))).isSome = true ∧ (next? (step State.reset)).isSome = true := by decide

/-- Each contract fault from a state that meets the invariant. -/
theorem witness_OnlyContractFaults :
    (Inv (word State.reset 0x2041) ∧ fault? (step (word State.reset 0x2041)) = some (.encNotStarted .send)) ∧
    (Inv (word State.reset 0x3000) ∧ fault? (step (word State.reset 0x3000)) = some (.encNotStarted .endFrame)) ∧
    (Inv (word (encoding 5 12) 0x2001) ∧ fault? (step (word (encoding 5 12) 0x2001)) = some .encPayloadTooLong) ∧
    (Inv (word (encoding 0 0) 0x5000) ∧ fault? (step (word (encoding 0 0) 0x5000)) = some .relayDuringFrame) ∧
    (Inv (word (encoding 0 0) 0x7000) ∧ fault? (step (word (encoding 0 0) 0x7000)) = some .pauseDuringFrame) :=
  ⟨⟨by decide, by decide⟩, ⟨by decide, by decide⟩, ⟨by decide, by decide⟩, ⟨by decide, by decide⟩,
    by decide, by decide⟩

theorem witness_PendingOverflowIsReported :
    let s := { received [0x83, 1, 2, 0x84] with ovf := true }
    s.ovf = true ∧ (next? (exec .poll s)).isSome = true ∧ (next? (exec (.rx 5) s)).isSome = true := by decide

theorem witness_ArrivingByteRunsBetweenMicroSteps :
    (let s := { State.reset with agenda := [.arrive 3 0x83 false false] }
     s.todo = []) ∧
    (let s := { fullQueue with todo := [.pushIdle], agenda := [.arrive 3 0x83 false false] }
     s.held = true) := by decide

/-- With each kind of schedule. -/
theorem witness_PushHoldsWhileQueueFull :
    ∀ es ∈ [([] : List Event), [.issue ⟨0x5000, 0⟩], [.arrive 0 0x83 false false], [.arrive 7 0x83 true true],
        [.drain 0], [.drain 7]],
      let s := { fullQueue with todo := [.pushIdle], agenda := es }
      s.todo = .pushIdle :: [] ∧ Micro.pushIdle.pushes = true ∧ s.cfg.outqSize = some 1 ∧ s.queued = 1 := by decide

/-- Between operations, at a micro-step boundary, and while a Push holds. -/
theorem witness_DrainerStepFreesOneSlot :
    (let s := { fullQueue with agenda := [.drain 7] }
     s.todo = []) ∧
    (let s := { fullQueue with todo := [.readHead], agenda := [.drain 0] }
     s.todo ≠ [] ∧ s.held = false) ∧
    (let s := { fullQueue with todo := [.pushIdle], agenda := [.drain 7] }
     s.held = true) := by decide

end Sys2Proof.Tests
end

/-! SUPPORT. What every operation and every step keep of a run: the parameters (R6), and the symbols already
pushed (R15). -/

namespace Sys2Proof.Machine

/-! ## Operations of the poll context -/

/-- The poll context's own micro-steps are no part of its frame. -/
theorem pollFrame_todo (s : State) (ms : List Micro) : PollFrame s { s with todo := ms } :=
  ⟨rfl, rfl, rfl, rfl, rfl, [], by simp⟩

theorem begin_pollFrame {ms : List Micro} {s t : State} (h : begin ms s = .next t) : PollFrame s t :=
  (pollFrame_todo s ms).trans (run_pollFrame h)

theorem execStart_pollFrame {p : BitVec 4} {s t : State} (h : execStart p s = .next t) : PollFrame s t :=
  begin_pollFrame h

theorem execSend_pollFrame {b : Byte} {s t : State} (h : execSend b s = .next t) : PollFrame s t := by
  unfold execSend at h
  split at h
  · cases h
  · split at h
    · cases h
    · exact begin_pollFrame h

theorem execEndFrame_pollFrame {s t : State} (h : execEndFrame s = .next t) : PollFrame s t := by
  unfold execEndFrame at h
  split at h
  · cases h
  · split at h <;> exact begin_pollFrame h

theorem execPoll_pollFrame {s t : State} (h : execPoll s = .next t) : PollFrame s t := by
  unfold execPoll at h
  split at h
  · cases h
  · exact begin_pollFrame h

theorem pollFrame_idleTicked (s : State) : PollFrame s s.idleTicked := ⟨rfl, rfl, rfl, rfl, rfl, [], by simp⟩

theorem execTick_pollFrame {idle : Bool} {s t : State} (h : execTick idle s = .next t) : PollFrame s t := by
  unfold execTick at h
  split at h
  · exact (pollFrame_idleTicked s).trans (begin_pollFrame h)
  · cases h; exact pollFrame_idleTicked s

theorem execSync_pollFrame {now : Nat} {s t : State} (h : execSync now s = .next t) : PollFrame s t := by
  unfold execSync at h
  split at h
  · cases h
  · split at h
    · cases h; exact ⟨rfl, rfl, rfl, rfl, rfl, [.gap], rfl⟩
    · cases h; exact .refl s

/-- No operation of the poll context but RESET writes the receive state, and none takes a symbol back. -/
theorem exec_pollFrame {i : Instr} {s t : State} (hrx : isReceive i = false) (hreset : i ≠ .reset)
    (h : exec i s = .next t) : PollFrame s t := by
  cases i with
  | start p => exact execStart_pollFrame h
  | send b => exact execSend_pollFrame h
  | endFrame => exact execEndFrame_pollFrame h
  | poll => exact execPoll_pollFrame h
  | tick idle => exact execTick_pollFrame h
  | sync now => exact execSync_pollFrame h
  | reset => exact absurd rfl hreset
  | rx b | rxOvr b | rxFe b | rxFeOvr b => cases hrx

/-! ## Every operation and every step -/

/-- The states belong to one run: the same parameters, and every symbol pushed by the first is still in the
stream of the second. -/
structure RunFrame (s t : State) : Prop where
  cfg : t.cfg = s.cfg
  out : ∃ o, t.out = s.out ++ o

theorem RunFrame.of_eq {s t : State} (hcfg : t.cfg = s.cfg) (hout : t.out = s.out) : RunFrame s t :=
  ⟨hcfg, [], by simp [hout]⟩

theorem PollFrame.runFrame {s t : State} (h : PollFrame s t) : RunFrame s t := ⟨h.cfg, h.out⟩

theorem SamePollSide.runFrame {s t : State} (h : SamePollSide s t) : RunFrame s t := .of_eq h.cfg h.out

/-- What is scheduled is neither a parameter nor a pushed symbol. -/
theorem RunFrame.of_agenda {s t : State} {es : List Event} (h : RunFrame { s with agenda := es } t) :
    RunFrame s t := ⟨h.cfg, h.out⟩

theorem rxByte_runFrame (b : Byte) (fe ovr : Bool) (s : State) : RunFrame s (rxByte b fe ovr s) :=
  (rxByte_samePollSide b fe ovr s).runFrame

/-- An operation of the interrupt context is one receive step. -/
theorem exists_rxInstr_of_isReceive {i : Instr} (h : isReceive i = true) : ∃ b fe ovr, i = rxInstr b fe ovr := by
  cases i with
  | rx b => exact ⟨b, false, false, rfl⟩
  | rxOvr b => exact ⟨b, false, true, rfl⟩
  | rxFe b => exact ⟨b, true, false, rfl⟩
  | rxFeOvr b => exact ⟨b, true, true, rfl⟩
  | start _ | send _ | endFrame | poll | tick _ | sync _ | reset => cases h

/-- RESET keeps the parameters and the pushed symbols (R263). -/
theorem execReset_runFrame {s t : State} (h : execReset s = .next t) : RunFrame s t := by
  cases h; exact .of_eq rfl rfl

theorem exec_runFrame {i : Instr} {s t : State} (h : exec i s = .next t) : RunFrame s t := by
  cases hrx : isReceive i with
  | true =>
    obtain ⟨b, fe, ovr, rfl⟩ := exists_rxInstr_of_isReceive hrx
    rw [exec_rxInstr] at h
    cases h; exact rxByte_runFrame b fe ovr s
  | false =>
    by_cases hreset : i = .reset
    · subst hreset; exact execReset_runFrame h
    · exact (exec_pollFrame hrx hreset h).runFrame

theorem step_runFrame {s t : State} (h : step s = .next t) : RunFrame s t := by
  obtain ⟨-, hresume⟩ | ⟨_, b, fe, ovr, es, -, rfl⟩ | ⟨_, es, -, rfl⟩ | ⟨_, es, i, -, -, -, hexec⟩ | ⟨-, rfl⟩ :=
    step_cases h
  · exact (run_pollFrame hresume).runFrame
  · exact (rxByte_runFrame b fe ovr _).of_agenda
  · exact .of_eq rfl rfl
  · exact (exec_runFrame hexec).of_agenda
  · exact .of_eq rfl rfl

/-- Settles O49: the run frame's stream clause at one step. -/
theorem outgoingStreamOnlyGrows : Obligations.OutgoingStreamOnlyGrows :=
  fun _ _ h => (step_runFrame h).out

/-- Settles O50: the run frame's parameter clause at one step. -/
theorem parametersNeverChange : Obligations.ParametersNeverChange :=
  fun _ _ h => (step_runFrame h).cfg

end Sys2Proof.Machine

/-! SUPPORT. The arithmetic of the ring (R9, R51, R57): what `inc` and `span` are on indices that name a cell, and
which cell stands how far from another. -/

namespace Sys2Proof.Machine

theorem State.inc_of_lt {s : State} {i : Nat} (hi : i < s.cfg.rbSize) :
    s.inc i = if i + 1 = s.cfg.rbSize then 0 else i + 1 := by
  unfold State.inc
  split
  · rename_i h; rw [h, Nat.mod_self]
  · exact Nat.mod_eq_of_lt (by omega)

theorem State.span_of_lt {s : State} {a b : Nat} (ha : a < s.cfg.rbSize) (hb : b < s.cfg.rbSize) :
    s.span a b = if a ≤ b then b - a else b + (s.cfg.rbSize - a) := by
  unfold State.span
  rw [Nat.mod_eq_of_lt ha]
  split
  · rw [show b + (s.cfg.rbSize - a) = (b - a) + s.cfg.rbSize by omega, Nat.add_mod_right]
    exact Nat.mod_eq_of_lt (by omega)
  · exact Nat.mod_eq_of_lt (by omega)

@[simp] theorem State.span_self {s : State} {a : Nat} (ha : a < s.cfg.rbSize) : s.span a a = 0 := by
  simp [State.span_of_lt ha ha]

theorem State.span_eq_zero {s : State} {a b : Nat} (ha : a < s.cfg.rbSize) (hb : b < s.cfg.rbSize) :
    s.span a b = 0 ↔ a = b := by
  rw [State.span_of_lt ha hb]; split <;> omega

theorem State.span_lt {s : State} {a b : Nat} (ha : a < s.cfg.rbSize) : s.span a b < s.cfg.rbSize :=
  Nat.mod_lt _ (by omega)

/-- From one cell, different cells stand differently far. -/
theorem State.span_right_inj {s : State} {a b c : Nat} (ha : a < s.cfg.rbSize) (hb : b < s.cfg.rbSize)
    (hc : c < s.cfg.rbSize) : s.span a b = s.span a c ↔ b = c := by
  rw [State.span_of_lt ha hb, State.span_of_lt ha hc]; split <;> split <;> omega

/-- A region grows by one cell at its end, unless that fills the ring. -/
theorem State.span_inc_right {s : State} {a b : Nat} (ha : a < s.cfg.rbSize) (hb : b < s.cfg.rbSize)
    (h : s.inc b ≠ a) : s.span a (s.inc b) = s.span a b + 1 := by
  have hi : s.inc b < s.cfg.rbSize := Nat.mod_lt _ (by omega)
  rw [State.span_of_lt ha hi, State.span_of_lt ha hb]
  rw [State.inc_of_lt hb] at *
  split_ifs at * <;> omega

/-- A region loses one cell at its front. -/
theorem State.span_inc_left {s : State} {a b : Nat} (ha : a < s.cfg.rbSize) (hb : b < s.cfg.rbSize)
    (h : a ≠ b) : s.span a b = s.span (s.inc a) b + 1 := by
  have hi : s.inc a < s.cfg.rbSize := Nat.mod_lt _ (by omega)
  rw [State.span_of_lt ha hb, State.span_of_lt hi hb]
  rw [State.inc_of_lt ha] at *
  split_ifs at * <;> omega

/-- Regions that follow one another. -/
theorem State.span_add_span {s : State} {a b c : Nat} (ha : a < s.cfg.rbSize) (hb : b < s.cfg.rbSize)
    (hc : c < s.cfg.rbSize) (h : s.span a b ≤ s.span a c) : s.span a b + s.span b c = s.span a c := by
  rw [State.span_of_lt ha hb, State.span_of_lt ha hc] at *
  rw [State.span_of_lt hb hc]
  split_ifs at * <;> omega

theorem State.add_span_mod {s : State} {a b : Nat} (ha : a < s.cfg.rbSize) (hb : b < s.cfg.rbSize) :
    (a + s.span a b) % s.cfg.rbSize = b := by
  rw [State.span_of_lt ha hb]
  split
  · rw [show a + (b - a) = b by omega]; exact Nat.mod_eq_of_lt hb
  · rw [show a + (b + (s.cfg.rbSize - a)) = b + s.cfg.rbSize by omega, Nat.add_mod_right]
    exact Nat.mod_eq_of_lt hb

/-! ## Cells by their distance -/

theorem State.cell_congr {s : State} {i j : Nat} (h : i % s.cfg.rbSize = j % s.cfg.rbSize) :
    s.cell i = s.cell j := by simp [State.cell, h]

theorem State.cell_inc (s : State) (i : Nat) : s.cell (s.inc i) = s.cell (i + 1) :=
  State.cell_congr (Nat.mod_mod _ _)

theorem State.cell_inc_add (s : State) (i k : Nat) : s.cell (s.inc i + k) = s.cell (i + (k + 1)) :=
  State.cell_congr (by rw [State.inc, Nat.mod_add_mod, show i + 1 + k = i + (k + 1) by omega])

theorem State.cell_add_span {s : State} {a b : Nat} (k : Nat) (ha : a < s.cfg.rbSize) (hb : b < s.cfg.rbSize) :
    s.cell (a + s.span a b + k) = s.cell (b + k) :=
  State.cell_congr (Nat.ModEq.add_right k ((State.add_span_mod ha hb).trans (Nat.mod_eq_of_lt hb).symm))

/-- A store leaves each cell whose distance is another one. -/
theorem State.cell_setCell_of_ne_span {s : State} {a b k : Nat} (v : Byte) (ha : a < s.cfg.rbSize)
    (hb : b < s.cfg.rbSize) (hk : k < s.cfg.rbSize) (h : k ≠ s.span a b) :
    (s.setCell b v).cell (a + k) = s.cell (a + k) := by
  refine State.cell_setCell_other v fun e => h ?_
  rw [Nat.mod_eq_of_lt hb] at e
  have hkm : (a + k) % s.cfg.rbSize = if a + k < s.cfg.rbSize then a + k else a + k - s.cfg.rbSize := by
    split
    · exact Nat.mod_eq_of_lt ‹_›
    · rw [Nat.mod_eq_sub_mod (by omega)]; exact Nat.mod_eq_of_lt (by omega)
  rw [State.span_of_lt ha hb]
  split at hkm <;> split <;> omega

end Sys2Proof.Machine

/-! SUPPORT. The classes of a cell's byte (R80, R81, R92) and how they exclude one another. -/

namespace Sys2Proof.Machine

theorem isStart_iff (u : Byte) : isStart u = true ↔ 0x80 ≤ u.toNat := by
  have := u.isLt
  simp only [isStart, BitVec.getElem_eq_testBit_toNat, Nat.testBit_eq_decide_div_mod_eq, decide_eq_true_eq]
  omega

theorem isLegalStart_iff (u : Byte) : isLegalStart u = true ↔ 0x80 ≤ u.toNat ∧ u.toNat ≤ 0xEF := by
  simp [isLegalStart]

theorem isPseudo_iff (u : Byte) : isPseudo u = true ↔ u = rbMal ∨ u = rbCtl ∨ u = rbHovf := by
  simp [isPseudo, or_assoc]

theorem isStart_of_isPseudo {u : Byte} (h : isPseudo u = true) : isStart u = true := by
  obtain rfl | rfl | rfl := (isPseudo_iff u).mp h <;> rfl

theorem isStart_of_isLegalStart {u : Byte} (h : isLegalStart u = true) : isStart u = true :=
  (isStart_iff u).mpr ((isLegalStart_iff u).mp h).1

theorem not_isPseudo_of_isLegalStart {u : Byte} (h : isLegalStart u = true) : ¬ isPseudo u = true := by
  intro hp
  obtain rfl | rfl | rfl := (isPseudo_iff u).mp hp <;> cases h

theorem not_isPseudo_of_isBody {u : Byte} (h : isBody u = true) : ¬ isPseudo u = true := by
  intro hp
  simp [isBody, isStart_of_isPseudo hp] at h

theorem isCellValue_of_isPseudo {u : Byte} (h : isPseudo u = true) : isCellValue u = true := by
  simp [isCellValue, h]

theorem isCellValue_of_isLegalStart {u : Byte} (h : isLegalStart u = true) : isCellValue u = true := by
  simp [isCellValue, h]

theorem isCellValue_of_isBody {u : Byte} (h : isBody u = true) : isCellValue u = true := by
  simp [isCellValue, h]

/-- A start byte whose address is not the reserved one is legal (R81). -/
theorem isLegalStart_of_addr_ne {u : Byte} (h : isStart u = true) (ha : addr u ≠ reservedAddr) :
    isLegalStart u = true := by
  rw [isStart_iff] at h
  have hlt := u.isLt
  have ha' : (addr u).toNat ≠ 7 := fun e => ha (BitVec.eq_of_toNat_eq e)
  simp only [addr, BitVec.extractLsb'_toNat, Nat.shiftRight_eq_div_pow] at ha'
  rw [isLegalStart_iff]
  omega

/-- The start byte of a local frame has a legal address (R120). -/
theorem isLegalStart_startByte_local (p : BitVec 4) : isLegalStart (startByte localAddr p) = true := by
  revert p; decide

/-- One hop on, a legal start byte is still a start byte (R205). -/
theorem isStart_nextHop {u : Byte} (h : isLegalStart u = true) : isStart (nextHop u) = true := by
  rw [isLegalStart_iff] at h
  have hadd : (nextHop u).toNat = (u.toNat + 0x10) % 2 ^ 8 := BitVec.toNat_add u 0x10
  rw [isStart_iff]
  omega

/-- The delta of a start byte and its successor has bit 7 clear (R205). -/
theorem deltaOk_nextHop {u : Byte} (h : isLegalStart u = true) : DeltaOk (u ^^^ nextHop u) := by
  have hu := isStart_of_isLegalStart h
  have hn := isStart_nextHop h
  simp_all [DeltaOk, isStart]

end Sys2Proof.Machine

/-! SUPPORT. A receive step keeps the invariants of the receive state (R28, R174), and what the relay may rely on
across it: closed cells stay, and the closed region only grows, by whole units, at its end (R59, R70). -/

namespace Sys2Proof.Machine

theorem IndexOk.head_lt {s : State} (h : IndexOk s) : s.head < s.cfg.rbSize := h.1
theorem IndexOk.wr_lt {s : State} (h : IndexOk s) : s.wr < s.cfg.rbSize := h.2.1
theorem IndexOk.tail_lt {s : State} (h : IndexOk s) : s.tail < s.cfg.rbSize := h.2.2
theorem BufferOk.size {s : State} (h : BufferOk s) : 3 ≤ s.cfg.rbSize := h.1.1
theorem BufferOk.index {s : State} (h : BufferOk s) : IndexOk s := h.2.1

/-- What the poll context can rely on when a receive step takes it from `s` to `t`: the cells closed in `s` are
closed in `t` with the same bytes, and where `head` moved, a unit starts in the cell it left. -/
structure ClosedGrows (s t : State) : Prop where
  cfg  : t.cfg = s.cfg
  tail : t.tail = s.tail
  span : s.span s.tail s.head ≤ s.span s.tail t.head
  cell : ∀ k, k < s.span s.tail s.head → t.cell (s.tail + k) = s.cell (s.tail + k)
  next : t.head = s.head ∨ isStart (t.cell s.head) = true

theorem span_congr {s t : State} (h : t.cfg = s.cfg) (a b : Nat) : t.span a b = s.span a b := by
  simp [State.span, h]

theorem inc_congr {s t : State} (h : t.cfg = s.cfg) (i : Nat) : t.inc i = s.inc i := by
  simp [State.inc, h]

theorem ClosedGrows.of_eq {s t : State} (hcfg : t.cfg = s.cfg) (hbuf : t.buf = s.buf) (hhead : t.head = s.head)
    (htail : t.tail = s.tail) : ClosedGrows s t where
  cfg  := hcfg
  tail := htail
  span := by rw [hhead]
  cell _ _ := by simp [State.cell, hcfg, hbuf]
  next := .inl hhead

/-- The cell at `head` is the one behind the closed region. -/
theorem cell_head_add {s t : State} (hcfg : t.cfg = s.cfg) (hs : IndexOk s) (j : Nat) :
    t.cell (s.tail + (s.span s.tail s.head + j)) = t.cell (s.head + j) := by
  have htail := hs.tail_lt
  have hhead := hs.head_lt
  rw [← hcfg] at hhead htail
  rw [← span_congr hcfg, ← Nat.add_assoc, State.cell_add_span j htail hhead]

/-- Where `head` moved, the cell it left is closed. -/
theorem ClosedGrows.span_lt {s t : State} (h : ClosedGrows s t) (hs : IndexOk s) (ht : IndexOk t)
    (hmove : t.head ≠ s.head) : s.span s.tail s.head < s.span s.tail t.head := by
  have hhead' := ht.head_lt
  rw [h.cfg] at hhead'
  exact Nat.lt_of_le_of_ne h.span fun e =>
    hmove ((State.span_right_inj hs.tail_lt hs.head_lt hhead').mp e).symm

theorem ClosedGrows.trans {s t u : State} (hs : IndexOk s) (ht : IndexOk t) (h : ClosedGrows s t)
    (k : ClosedGrows t u) : ClosedGrows s u := by
  have hkspan := k.span
  have hkcell := k.cell
  rw [h.tail, span_congr h.cfg, span_congr h.cfg] at hkspan
  rw [h.tail, span_congr h.cfg] at hkcell
  refine ⟨k.cfg.trans h.cfg, k.tail.trans h.tail, h.span.trans hkspan, fun i hi => ?_, ?_⟩
  · exact (hkcell i (Nat.lt_of_lt_of_le hi h.span)).trans (h.cell i hi)
  · by_cases hmove : t.head = s.head
    · exact hmove ▸ k.next
    · have hsame := hkcell _ (h.span_lt hs ht hmove)
      have hu := cell_head_add (k.cfg.trans h.cfg) hs 0
      have ht' := cell_head_add h.cfg hs 0
      simp only [Nat.add_zero] at hu ht'
      rw [hu, ht'] at hsame
      exact .inr (hsame ▸ h.next.resolve_left hmove)

/-- The step keeps the invariants of the receive state, and the poll context can rely on what was closed. -/
def KeepsBuffer (s t : State) : Prop := BufferOk s → BufferOk t ∧ ClosedGrows s t

theorem KeepsBuffer.refl (s : State) : KeepsBuffer s s := fun h => ⟨h, .of_eq rfl rfl rfl rfl⟩

theorem KeepsBuffer.trans {s t u : State} (h : KeepsBuffer s t) (k : KeepsBuffer t u) : KeepsBuffer s u := by
  intro hs
  obtain ⟨ht, hst⟩ := h hs
  obtain ⟨hu, htu⟩ := k ht
  exact ⟨hu, hst.trans hs.index ht.index htu⟩

/-- A closed region that keeps its cells and grows by `n` cells, which hold values that a rule writes with no
pseudo-frame but in the last, meets R28 item 5 again, where the first of them starts a unit. -/
theorem closedOk_of_grows {s t : State} {n : Nat} (hs : IndexOk s) (hclosed : ClosedOk s)
    (h : ClosedGrows s t) (hspan : s.span s.tail t.head = s.span s.tail s.head + n)
    (hnew : ∀ j, j < n → isCellValue (t.cell (s.head + j)) = true ∧
      (isPseudo (t.cell (s.head + j)) = true → j + 1 = n)) : ClosedOk t := by
  intro k hk
  rw [span_congr h.cfg, h.tail, hspan] at hk
  rw [span_congr h.cfg, h.tail, hspan]
  unfold State.cellIs
  by_cases hlt : k < s.span s.tail s.head
  · obtain ⟨hvalue, hone⟩ := hclosed k hlt
    rw [h.cell k hlt]
    refine ⟨hvalue, fun hp hnext => ?_⟩
    by_cases hlast : k + 1 < s.span s.tail s.head
    · rw [Nat.add_assoc, h.cell _ hlast]; exact hone hp hlast
    · have hmove : t.head ≠ s.head := fun e => by rw [e] at hspan; omega
      have hat := cell_head_add h.cfg hs 0
      rw [show s.span s.tail s.head + 0 = k + 1 by omega] at hat
      rw [Nat.add_assoc, hat]
      exact h.next.resolve_left hmove
  · obtain ⟨j, rfl⟩ := Nat.exists_eq_add_of_le (Nat.le_of_not_lt hlt)
    obtain ⟨hvalue, hpseudo⟩ := hnew j (by omega)
    rw [cell_head_add h.cfg hs]
    exact ⟨hvalue, fun hp hnext => by have := hpseudo hp; omega⟩

/-- A closed region that keeps its cells and its length meets R28 item 5 again. -/
theorem closedOk_of_grows_of_head {s t : State} (hs : IndexOk s) (hclosed : ClosedOk s)
    (h : ClosedGrows s t) (hhead : t.head = s.head) : ClosedOk t :=
  closedOk_of_grows (n := 0) hs hclosed h (by rw [hhead]; rfl) fun _ hj => absurd hj (Nat.not_lt_zero _)

/-! ## The elementary changes of the receive state -/

theorem sacrificed_keepsBuffer (s : State) : KeepsBuffer s s.sacrificed :=
  fun h => ⟨h, .of_eq rfl rfl rfl rfl⟩

theorem abandon_keepsBuffer (s : State) : KeepsBuffer s (abandon s) := by
  rintro ⟨hcfg, ⟨hhead, -, htail⟩, hmem, -, -, -, hclosed⟩
  exact ⟨⟨hcfg, ⟨hhead, hhead, htail⟩, hmem, fun _ => rfl, nofun, Nat.le_refl _, hclosed⟩,
    .of_eq rfl rfl rfl rfl⟩

/-- The open frame holds values that a rule writes, and no pseudo-frame (R28 item 2). -/
theorem OpenOk.cell_value {s : State} (h : OpenOk s) (hmode : s.mode = .opened) {k : Nat}
    (hk : k < s.span s.head s.wr) :
    isCellValue (s.cell (s.head + k)) = true ∧ ¬ isPseudo (s.cell (s.head + k)) = true := by
  obtain ⟨-, hstart, hbody⟩ := h hmode
  by_cases h0 : k = 0
  · subst h0
    exact ⟨isCellValue_of_isLegalStart hstart, not_isPseudo_of_isLegalStart hstart⟩
  · exact ⟨isCellValue_of_isBody (hbody k hk h0), not_isPseudo_of_isBody (hbody k hk h0)⟩

/-- The open frame becomes a closed unit (R171). -/
theorem closeOpen_keepsBuffer {s : State} (hmode : s.mode = .opened) : KeepsBuffer s (closeOpen s) := by
  rintro ⟨hcfg, hindex, hmem, -, hopen, horder, hclosed⟩
  obtain ⟨hhead, hwr, htail⟩ := hindex
  obtain ⟨-, hstart, -⟩ := hopen hmode
  have hindex' : IndexOk (closeOpen s) := ⟨hwr, hwr, htail⟩
  have hgrows : ClosedGrows s (closeOpen s) :=
    ⟨rfl, rfl, horder, fun _ _ => rfl, .inr (isStart_of_isLegalStart hstart)⟩
  have hclosed' := closedOk_of_grows ⟨hhead, hwr, htail⟩ hclosed hgrows
    (State.span_add_span htail hhead hwr horder).symm fun j hj =>
      (OpenOk.cell_value hopen hmode hj).imp_right fun hp h => absurd h hp
  exact ⟨⟨hcfg, hindex', hmem, fun _ => rfl, nofun, Nat.le_refl _, hclosed'⟩, hgrows⟩

/-- A store at `head` leaves the closed cells, and shows at `head`. -/
theorem cell_setCell_head {s : State} (v : Byte) (hs : BufferOk s) :
    (s.setCell s.head v).cell s.head = v ∧
    ∀ k, k < s.span s.tail s.head → (s.setCell s.head v).cell (s.tail + k) = s.cell (s.tail + k) := by
  obtain ⟨-, hindex, ⟨hwf, -⟩, -⟩ := hs
  refine ⟨State.cell_setCell_same _ _ hwf, fun k hk => ?_⟩
  exact State.cell_setCell_of_ne_span v hindex.tail_lt hindex.head_lt
    (hk.trans (State.span_lt hindex.tail_lt)) (Nat.ne_of_lt hk)

/-- Publishing a one-cell code needs a free cell behind it (R162). -/
theorem publishCode_keepsBuffer {code : Byte} {s : State} (hcode : isPseudo code = true)
    (hmode : s.mode = .discard) (hroom : s.inc s.head ≠ s.tail) : KeepsBuffer s (publishCode code s) := by
  intro hs
  obtain ⟨hnew, hold⟩ := cell_setCell_head code hs
  obtain ⟨hcfg, ⟨hhead, hwr, htail⟩, hmem, -, -, -, hclosed⟩ := hs
  have hinc : s.inc s.head < s.cfg.rbSize := State.inc_lt hcfg.1 _
  have hindex' : IndexOk (publishCode code s) := ⟨hinc, hinc, htail⟩
  have hspan := State.span_inc_right htail hhead hroom
  have hgrows : ClosedGrows s (publishCode code s) :=
    ⟨rfl, rfl, hspan ▸ Nat.le_succ _, hold, .inr ((congrArg isStart hnew).trans (isStart_of_isPseudo hcode))⟩
  have hclosed' : ClosedOk (publishCode code s) := by
    refine closedOk_of_grows (n := 1) ⟨hhead, hwr, htail⟩ hclosed hgrows hspan fun j hj => ?_
    obtain rfl : j = 0 := by omega
    exact ⟨(congrArg isCellValue hnew).trans (isCellValue_of_isPseudo hcode), fun _ => rfl⟩
  exact ⟨⟨hcfg, hindex', State.setCell_fits _ _ hcfg.1 hmem, fun _ => rfl,
    fun h => absurd (hmode.symm.trans h) (by decide), Nat.le_refl _, hclosed'⟩, hgrows⟩

/-- Opening a frame needs a free cell behind its start byte (R163). -/
theorem openFrame_keepsBuffer {b : Byte} {s : State} (hb : isLegalStart b = true)
    (hroom : s.inc s.head ≠ s.tail) : KeepsBuffer s (openFrame b s) := by
  intro hs
  obtain ⟨hnew, hold⟩ := cell_setCell_head b hs
  obtain ⟨hcfg, ⟨hhead, hwr, htail⟩, hmem, -, -, -, hclosed⟩ := hs
  have hinc : s.inc s.head < s.cfg.rbSize := State.inc_lt hcfg.1 _
  have hindex' : IndexOk (openFrame b s) := ⟨hhead, hinc, htail⟩
  have hspan := State.span_inc_right htail hhead hroom
  have hne : s.inc s.head ≠ s.head := fun e => by rw [e] at hspan; omega
  have hone : s.span s.head (s.inc s.head) = 1 := by
    rw [State.span_inc_right hhead hhead hne, State.span_self hhead]
  have hopen : OpenOk (openFrame b s) := by
    refine fun _ => ⟨hne, (congrArg isLegalStart hnew).trans hb, fun k hk h0 => ?_⟩
    change k < s.span s.head (s.inc s.head) at hk
    omega
  have hgrows : ClosedGrows s (openFrame b s) := ⟨rfl, rfl, Nat.le_refl _, hold, .inl rfl⟩
  have hclosed' := closedOk_of_grows_of_head ⟨hhead, hwr, htail⟩ hclosed hgrows rfl
  exact ⟨⟨hcfg, hindex', State.setCell_fits _ _ hcfg.1 hmem, nofun, hopen,
    (Nat.le_succ _).trans (Nat.le_of_eq hspan.symm), hclosed'⟩, hgrows⟩

/-- Appending a body byte needs a free cell behind it (R166). -/
theorem bodyAppend_keepsBuffer {b : Byte} {s : State} (hb : isBody b = true) (hmode : s.mode = .opened)
    (hroom : s.inc s.wr ≠ s.tail) : KeepsBuffer s (bodyAppend b s) := by
  rintro ⟨hcfg, ⟨hhead, hwr, htail⟩, hmem, -, hopen, horder, hclosed⟩
  obtain ⟨hne, hstart, hbody⟩ := hopen hmode
  have hinc : s.inc s.wr < s.cfg.rbSize := State.inc_lt hcfg.1 _
  have hindex' : IndexOk (bodyAppend b s) := ⟨hhead, hinc, htail⟩
  have hsum := State.span_add_span htail hhead hwr horder
  have hgrow := State.span_inc_right htail hwr hroom
  have hne' : s.inc s.wr ≠ s.head := fun e => by rw [e] at hgrow; omega
  have hgrow' := State.span_inc_right hhead hwr hne'
  have hpos : s.span s.head s.wr ≠ 0 := fun e => hne ((State.span_eq_zero hhead hwr).mp e).symm
  have hlt := State.span_lt (b := s.wr) htail
  have hlt' := State.span_lt (b := s.wr) hhead
  have hold (k : Nat) (hk : k < s.span s.tail s.head) :
      (s.setCell s.wr b).cell (s.tail + k) = s.cell (s.tail + k) :=
    State.cell_setCell_of_ne_span b htail hwr (by omega) (by omega)
  have hframe (k : Nat) (hk : k < s.span s.head s.wr) :
      (s.setCell s.wr b).cell (s.head + k) = s.cell (s.head + k) :=
    State.cell_setCell_of_ne_span b hhead hwr (by omega) (by omega)
  have hnew : (s.setCell s.wr b).cell (s.head + s.span s.head s.wr) = b :=
    (State.cell_add_span (s := s.setCell s.wr b) 0 hhead hwr).trans (State.cell_setCell_same _ _ hmem.1)
  have hopen' : OpenOk (bodyAppend b s) := by
    refine fun _ => ⟨hne', (congrArg isLegalStart (hframe 0 (by omega))).trans hstart, fun k hk h0 => ?_⟩
    change k < s.span s.head (s.inc s.wr) at hk
    by_cases hin : k < s.span s.head s.wr
    · exact (congrArg isBody (hframe k hin)).trans (hbody k hin h0)
    · obtain rfl : k = s.span s.head s.wr := by omega
      exact (congrArg isBody hnew).trans hb
  have hgrows : ClosedGrows s (bodyAppend b s) := ⟨rfl, rfl, Nat.le_refl _, hold, .inl rfl⟩
  have hclosed' := closedOk_of_grows_of_head ⟨hhead, hwr, htail⟩ hclosed hgrows rfl
  exact ⟨⟨hcfg, hindex', State.setCell_fits _ _ hcfg.1 hmem,
    fun h => absurd (hmode.symm.trans h) (by decide), hopen',
    horder.trans ((Nat.le_succ _).trans (Nat.le_of_eq hgrow.symm)), hclosed'⟩, hgrows⟩

/-! ## The rows of the receive table (R160) -/

theorem inject_keepsBuffer {code : Byte} {s : State} (hcode : isPseudo code = true) (hmode : s.mode = .discard) :
    KeepsBuffer s (inject code s) := by
  unfold inject
  split
  · exact publishCode_keepsBuffer hcode hmode ‹_›
  · exact sacrificed_keepsBuffer s

theorem inject_mode (code : Byte) (s : State) : (inject code s).mode = s.mode := by
  unfold inject
  split <;> rfl

theorem placeStart_keepsBuffer {b : Byte} {s : State} (hb : isStart b = true) (hmode : s.mode = .discard)
    (hroom : s.inc s.head ≠ s.tail) : KeepsBuffer s (placeStart b s) := by
  unfold placeStart
  split
  · exact publishCode_keepsBuffer rfl hmode hroom
  · exact openFrame_keepsBuffer (isLegalStart_of_addr_ne hb ‹_›) hroom

theorem admitStart_keepsBuffer {b : Byte} {s : State} (hb : isStart b = true) (hmode : s.mode = .discard) :
    KeepsBuffer s (admitStart b s) := by
  unfold admitStart
  split
  · exact sacrificed_keepsBuffer s
  · exact placeStart_keepsBuffer hb hmode ‹_›

theorem framingError_keepsBuffer (s : State) : KeepsBuffer s (framingError s) :=
  (abandon_keepsBuffer s).trans (inject_keepsBuffer rfl rfl)

theorem overrun_keepsBuffer (b : Byte) (s : State) : KeepsBuffer s (overrun b s) := by
  have hcode : KeepsBuffer s (inject rbHovf (abandon s)) :=
    (abandon_keepsBuffer s).trans (inject_keepsBuffer rfl rfl)
  unfold overrun
  split
  · exact hcode.trans (admitStart_keepsBuffer ‹_› (inject_mode _ _))
  · exact hcode

/-- A buffer whose closed region is empty has room for one cell: R6 asks for three cells. -/
theorem inc_head_ne_tail_of_empty {s : State} (hs : BufferOk s) (hempty : s.head = s.tail) :
    s.inc s.head ≠ s.tail := by
  have hsize := hs.size
  rw [State.inc_of_lt hs.index.head_lt]
  split <;> omega

/-- The only closed unit's place is taken by a code, where nothing else is closed (R167, R173). -/
theorem publishCode_abandon_keepsBuffer {code : Byte} {s : State} (hcode : isPseudo code = true)
    (hempty : s.head = s.tail) : KeepsBuffer s (publishCode code (abandon s)) := by
  intro hs
  have hroom : (abandon s).inc (abandon s).head ≠ (abandon s).tail :=
    inc_head_ne_tail_of_empty (s := s) hs hempty
  exact (abandon_keepsBuffer s).trans (publishCode_keepsBuffer hcode rfl hroom) hs

theorem bodyWhileOpen_keepsBuffer {b : Byte} {s : State} (hb : isBody b = true) (hmode : s.mode = .opened) :
    KeepsBuffer s (bodyWhileOpen b s) := by
  unfold bodyWhileOpen
  split
  · exact bodyAppend_keepsBuffer hb hmode (by simpa [State.room] using ‹s.room = true›)
  · split
    · exact publishCode_abandon_keepsBuffer rfl (Eq.symm ‹_›)
    · exact (abandon_keepsBuffer s).trans (sacrificed_keepsBuffer _)

theorem isPseudo_oversizeCode (b : Byte) : isPseudo (oversizeCode b) = true := by
  unfold oversizeCode
  split <;> rfl

/-- Case (a) of R173 abandons the frame that was just closed and publishes its code in its place. -/
theorem replaceOnly_closeOpen {b : Byte} {s : State} (hempty : s.head = s.tail) :
    replaceOnly b (closeOpen s) = publishCode (oversizeCode b) (abandon s) := by
  simp [replaceOnly, closeOpen, publishCode, abandon, State.setCell, State.inc, hempty]

theorem startNoRoom_keepsBuffer {b : Byte} {s : State} (hb : isStart b = true) (hmode : s.mode = .opened) :
    KeepsBuffer s (startNoRoom b s.head (closeOpen s)) := by
  unfold startNoRoom
  split
  · rename_i hempty
    have hcode := publishCode_abandon_keepsBuffer (s := s) (isPseudo_oversizeCode b) hempty
    rw [replaceOnly_closeOpen hempty]
    split
    · rename_i hopens
      exact hcode.trans (openFrame_keepsBuffer (isLegalStart_of_addr_ne hb hopens.1) hopens.2)
    · exact hcode
  · exact (closeOpen_keepsBuffer hmode).trans (sacrificed_keepsBuffer _)

theorem startWhileOpen_keepsBuffer {b : Byte} {s : State} (hb : isStart b = true) (hmode : s.mode = .opened) :
    KeepsBuffer s (startWhileOpen b s) := by
  unfold startWhileOpen
  split
  · rename_i hroom
    have hroom : (closeOpen s).inc (closeOpen s).wr ≠ (closeOpen s).tail := by simpa [State.room] using hroom
    exact (closeOpen_keepsBuffer hmode).trans (placeStart_keepsBuffer hb rfl hroom)
  · exact startNoRoom_keepsBuffer hb hmode

theorem rxByte_keepsBuffer (b : Byte) (fe ovr : Bool) (s : State) : KeepsBuffer s (rxByte b fe ovr s) := by
  unfold rxByte
  split
  · exact framingError_keepsBuffer s
  · split
    · exact overrun_keepsBuffer b s
    · split
      · exact bodyWhileOpen_keepsBuffer (by simp [isBody, *]) ‹_›
      · exact .refl s
      · exact admitStart_keepsBuffer ‹_› ‹_›
      · exact startWhileOpen_keepsBuffer ‹_› ‹_›

end Sys2Proof.Machine

/-! SUPPORT. The positions of an operation in progress as inductive predicates, so that a proof can go through them
case by case: `relayOk_iff` and `todoOk_iff` tie them to the invariant's own checks. A position does not read
`State.todo`, and a receive step keeps it. -/

namespace Sys2Proof.Machine

/-- Where a relay call can stand (R200 to R205): the micro-steps `ms` it still has to take, and what they assume of
the buffer. -/
inductive RelayPos (s : State) : List Micro → Prop where
  | done (hunit : AtUnit s) : RelayPos s []
  | startFrame {ms} (b : Byte) (hrest : RelayPos s ms) : RelayPos s (.startFrame b :: ms)
  | push {ms} (b : Byte) (hrest : RelayPos s ms) : RelayPos s (.push b :: ms)
  | readHead (hunit : AtUnit s) : RelayPos s [.readHead]
  | readUnit {h} (hsnap : Snapshot s h) (hne : s.tail ≠ h) (hunit : AtUnit s) : RelayPos s [.readUnit h]
  | peekIdle {h} (hat : AtCell s h idleByte) (hnext : s.inc s.tail ≠ h) : RelayPos s [.peekIdle h]
  | skipIdle (hat : AtCell s s.head idleByte) (hends : unitEnds s s.head = true) : RelayPos s [.skipIdle]
  | takePseudo {u} (hat : AtCell s s.head u) (hcode : isPseudo u = true) : RelayPos s [.takePseudo u]
  | peekStart {h u} (hat : AtCell s h u) (hstart : isLegalStart u = true) (hnext : s.inc s.tail ≠ h) :
    RelayPos s [.peekStart h u, .testAndClear]
  | takeStart {h u last} (hat : AtCell s h u) (hstart : isLegalStart u = true) (hlast : last = unitEnds s h) :
    RelayPos s [.takeStart h u last, .testAndClear]
  | readBody {h d} (hsnap : Snapshot s h) (hne : s.tail ≠ h) (hbody : s.cellIs s.tail isBody = true)
    (hdelta : DeltaOk d) : RelayPos s [.readBody h d, .testAndClear]
  | peekBody {h d b} (hat : AtCell s h b) (hbody : isBody b = true) (hnext : s.inc s.tail ≠ h)
    (hdelta : DeltaOk d) : RelayPos s [.peekBody h d b, .testAndClear]
  | takeBody {h d b last} (hat : AtCell s h b) (hbody : isBody b = true) (hlast : last = unitEnds s h)
    (hdelta : DeltaOk d) : RelayPos s [.takeBody h d b last, .testAndClear]
  | testAndClear {ms} (hunit : AtUnit s) (hlen : ms.length ≤ 4) (hpushes : afterPushes ms = []) :
    RelayPos s (.testAndClear :: ms)

/-- Leading pushes may be added and taken away. -/
theorem relayPos_afterPushes {s : State} {ms : List Micro} : RelayPos s (afterPushes ms) ↔ RelayPos s ms := by
  induction ms with
  | nil => rfl
  | cons m ms ih =>
    cases m with
    | startFrame b => exact ⟨fun h => .startFrame b (ih.mp h), fun | .startFrame _ h => ih.mpr h⟩
    | push b => exact ⟨fun h => .push b (ih.mp h), fun | .push _ h => ih.mpr h⟩
    | _ => rfl

theorem relayPos_of_relayOk {s : State} (h : relayOk s = true) : RelayPos s s.todo := by
  rw [← relayPos_afterPushes]
  unfold relayOk at h
  split at h
  next heq => rw [heq]; exact .done (of_decide_eq_true h)
  next heq => rw [heq]; exact .readHead (of_decide_eq_true h)
  next heq =>
    obtain ⟨hsnap, hne, hunit⟩ := of_decide_eq_true h
    rw [heq]; exact .readUnit hsnap hne hunit
  next heq =>
    obtain ⟨hat, hnext⟩ := of_decide_eq_true h
    rw [heq]; exact .peekIdle hat hnext
  next heq =>
    obtain ⟨hat, hends⟩ := of_decide_eq_true h
    rw [heq]; exact .skipIdle hat hends
  next heq =>
    obtain ⟨hat, hcode⟩ := of_decide_eq_true h
    rw [heq]; exact .takePseudo hat hcode
  next heq =>
    obtain ⟨hat, hstart, hnext⟩ := of_decide_eq_true h
    rw [heq]; exact .peekStart hat hstart hnext
  next heq =>
    obtain ⟨hat, hstart, hlast⟩ := of_decide_eq_true h
    rw [heq]; exact .takeStart hat hstart hlast
  next heq =>
    obtain ⟨hsnap, hne, hbody, hdelta⟩ := of_decide_eq_true h
    rw [heq]; exact .readBody hsnap hne hbody hdelta
  next heq =>
    obtain ⟨hat, hbody, hnext, hdelta⟩ := of_decide_eq_true h
    rw [heq]; exact .peekBody hat hbody hnext hdelta
  next heq =>
    obtain ⟨hat, hbody, hlast, hdelta⟩ := of_decide_eq_true h
    rw [heq]; exact .takeBody hat hbody hlast hdelta
  next heq =>
    simp only [Bool.and_eq_true, decide_eq_true_eq, List.isEmpty_iff] at h
    obtain ⟨⟨hunit, hlen⟩, hpushes⟩ := h
    rw [heq]; exact .testAndClear hunit hlen hpushes
  next => cases h

theorem RelayPos.relayOk {s : State} {ms : List Micro} (h : RelayPos s ms) :
    relayOk { s with todo := ms } = true := by
  induction h with
  | startFrame b _ ih => exact ih
  | push b _ ih => exact ih
  | done hunit => exact decide_eq_true hunit
  | readHead hunit => exact decide_eq_true hunit
  | readUnit hsnap hne hunit => exact decide_eq_true ⟨hsnap, hne, hunit⟩
  | peekIdle hat hnext => exact decide_eq_true ⟨hat, hnext⟩
  | skipIdle hat hends => exact decide_eq_true ⟨hat, hends⟩
  | takePseudo hat hcode => exact decide_eq_true ⟨hat, hcode⟩
  | peekStart hat hstart hnext => exact decide_eq_true ⟨hat, hstart, hnext⟩
  | takeStart hat hstart hlast => exact decide_eq_true ⟨hat, hstart, hlast⟩
  | readBody hsnap hne hbody hdelta => exact decide_eq_true ⟨hsnap, hne, hbody, hdelta⟩
  | peekBody hat hbody hnext hdelta => exact decide_eq_true ⟨hat, hbody, hnext, hdelta⟩
  | takeBody hat hbody hlast hdelta => exact decide_eq_true ⟨hat, hbody, hlast, hdelta⟩
  | testAndClear hunit hlen hpushes =>
    exact (Bool.and_eq_true _ _).mpr ⟨decide_eq_true ⟨hunit, hlen⟩, List.isEmpty_iff.mpr hpushes⟩

/-- Where any operation in progress can stand (R21, R62): the micro-steps `ms` it still has to take, and what they
assume of the encoder and the buffer. -/
inductive TodoPos (s : State) : List Micro → Prop where
  | idle (hrest : EncRest s) (hunit : AtUnit s) : TodoPos s []
  | pushStart {b} (hrest : EncRest s) (hunit : AtUnit s) (hstart : isLegalStart b = true) :
    TodoPos s [.pushStart b]
  | pushPayload {b} (hrest : EncRest s) (hunit : AtUnit s) (hactive : s.encActive = true)
    (hn : s.encN < payloadMax) : TodoPos s [.pushPayload b]
  | pushSideOfRun (hunit : AtUnit s) (hactive : s.encActive = true) (hcnt : s.encCnt = runLen)
    (hn : s.encN % runLen = 0) : TodoPos s [.pushSide]
  | pushSideOfEnd (hrest : EncRest s) (hunit : AtUnit s) (hactive : s.encActive = true) (hcnt : s.encCnt ≠ 0) :
    TodoPos s [.pushSide, .pushCheck]
  | pushCheck (hunit : AtUnit s) (hactive : s.encActive = true) (hcnt : s.encCnt = 0) : TodoPos s [.pushCheck]
  | pushIdle (hrest : EncRest s) (hunit : AtUnit s) (hactive : s.encActive = false) : TodoPos s [.pushIdle]
  | relay {ms} (hrest : EncRest s) (hactive : s.encActive = false) (hlen : ms.length ≤ 8)
    (hpos : RelayPos s ms) : TodoPos s ms

theorem todoPos_of_todoOk {s : State} (h : todoOk s = true) : TodoPos s s.todo := by
  unfold todoOk at h
  split at h
  next heq =>
    obtain ⟨hrest, hunit⟩ := of_decide_eq_true h
    rw [heq]; exact .idle hrest hunit
  next heq =>
    simp only [Bool.and_eq_true, decide_eq_true_eq] at h
    obtain ⟨⟨hrest, hunit⟩, hstart⟩ := h
    rw [heq]; exact .pushStart hrest hunit hstart
  next heq =>
    obtain ⟨hrest, hunit, hactive, hn⟩ := of_decide_eq_true h
    rw [heq]; exact .pushPayload hrest hunit hactive hn
  next heq =>
    obtain ⟨hunit, hactive, hcnt, hn⟩ := of_decide_eq_true h
    rw [heq]; exact .pushSideOfRun hunit hactive hcnt hn
  next heq =>
    obtain ⟨hrest, hunit, hactive, hcnt⟩ := of_decide_eq_true h
    rw [heq]; exact .pushSideOfEnd hrest hunit hactive hcnt
  next heq =>
    obtain ⟨hunit, hactive, hcnt⟩ := of_decide_eq_true h
    rw [heq]; exact .pushCheck hunit hactive hcnt
  next heq =>
    obtain ⟨hrest, hunit, hactive⟩ := of_decide_eq_true h
    rw [heq]; exact .pushIdle hrest hunit hactive
  next =>
    simp only [Bool.and_eq_true, decide_eq_true_eq] at h
    obtain ⟨⟨hrest, hactive, hlen⟩, hrelay⟩ := h
    exact .relay hrest hactive hlen (relayPos_of_relayOk hrelay)

theorem TodoPos.todoOk {s : State} {ms : List Micro} (h : TodoPos s ms) :
    todoOk { s with todo := ms } = true := by
  cases h with
  | idle hrest hunit => exact decide_eq_true ⟨hrest, hunit⟩
  | pushStart hrest hunit hstart =>
    exact (Bool.and_eq_true _ _).mpr ⟨decide_eq_true ⟨hrest, hunit⟩, hstart⟩
  | pushPayload hrest hunit hactive hn => exact decide_eq_true ⟨hrest, hunit, hactive, hn⟩
  | pushSideOfRun hunit hactive hcnt hn => exact decide_eq_true ⟨hunit, hactive, hcnt, hn⟩
  | pushSideOfEnd hrest hunit hactive hcnt => exact decide_eq_true ⟨hrest, hunit, hactive, hcnt⟩
  | pushCheck hunit hactive hcnt => exact decide_eq_true ⟨hunit, hactive, hcnt⟩
  | pushIdle hrest hunit hactive => exact decide_eq_true ⟨hrest, hunit, hactive⟩
  | relay hrest hactive hlen hpos =>
    have hrelay : (decide (EncRest s ∧ s.encActive = false ∧ ms.length ≤ 8) &&
        relayOk { s with todo := ms }) = true :=
      (Bool.and_eq_true _ _).mpr ⟨decide_eq_true ⟨hrest, hactive, hlen⟩, hpos.relayOk⟩
    cases hpos with
    | done hunit => exact decide_eq_true ⟨hrest, hunit⟩
    | _ => exact hrelay

/-- The invariant with the position of the operation in progress as a predicate. -/
theorem inv_iff (s : State) : Inv s ↔ BufferOk s ∧ EncOk s ∧ OutOk s ∧ TodoPos s s.todo :=
  and_congr_right fun _ => and_congr_right fun _ => and_congr_right fun _ => ⟨todoPos_of_todoOk, TodoPos.todoOk⟩

/-! ## What a receive step leaves of a position -/

/-- In the cell `i` a unit starts, or it is the cell behind the closed region (R58). -/
abbrev Boundary (s : State) (i : Nat) : Prop := i = s.head ∨ isStart (s.cell i) = true

theorem unitEnds_head_iff (s : State) : unitEnds s s.head = true ↔ Boundary s (s.inc s.tail) := by
  simp [unitEnds, State.cellIs]

theorem ClosedGrows.cell_of_span_lt {s t : State} (h : ClosedGrows s t) (hs : IndexOk s) {i : Nat}
    (hi : i < s.cfg.rbSize) (hlt : s.span s.tail i < s.span s.tail s.head) : t.cell i = s.cell i := by
  have hmod := (State.add_span_mod hs.tail_lt hi).trans (Nat.mod_eq_of_lt hi).symm
  have hcell := h.cell _ hlt
  rwa [State.cell_congr (h.cfg ▸ hmod), State.cell_congr hmod] at hcell

theorem ClosedGrows.boundary {s t : State} (h : ClosedGrows s t) (hs : IndexOk s) {i : Nat}
    (hi : i < s.cfg.rbSize) (hle : s.span s.tail i ≤ s.span s.tail s.head) (hb : Boundary s i) :
    Boundary t i := by
  by_cases hhead : i = s.head
  · subst hhead; exact h.next.imp_left Eq.symm
  · have hlt := Nat.lt_of_le_of_ne hle fun e =>
      hhead ((State.span_right_inj hs.tail_lt hi hs.head_lt).mp e)
    rw [Boundary, h.cell_of_span_lt hs hi hlt]
    exact .inr (hb.resolve_left hhead)

theorem ClosedGrows.atUnit {s t : State} (h : ClosedGrows s t) (hs : IndexOk s) (hunit : AtUnit s) :
    AtUnit t := by
  have hb : Boundary t s.tail := h.boundary hs hs.tail_lt (by simp [hs.tail_lt]) hunit
  rw [← h.tail] at hb
  exact hb

theorem ClosedGrows.snapshot {s t : State} (h : ClosedGrows s t) (hs : IndexOk s) {i : Nat}
    (hsnap : Snapshot s i) : Snapshot t i := by
  obtain ⟨hi, hle, hb⟩ := hsnap
  refine ⟨h.cfg ▸ hi, ?_, h.boundary hs hi hle hb⟩
  rw [span_congr h.cfg, span_congr h.cfg, h.tail]
  exact hle.trans h.span

/-- Before a snapshot that `tail` has not reached, the buffer is not empty. -/
theorem Snapshot.span_pos {s : State} {i : Nat} (hs : IndexOk s) (hsnap : Snapshot s i) (hne : s.tail ≠ i) :
    0 < s.span s.tail i ∧ 0 < s.span s.tail s.head := by
  obtain ⟨hi, hle, -⟩ := hsnap
  have : s.span s.tail i ≠ 0 := fun e => hne ((State.span_eq_zero hs.tail_lt hi).mp e)
  omega

theorem Snapshot.tail_ne_head {s : State} {i : Nat} (hs : IndexOk s) (hsnap : Snapshot s i) (hne : s.tail ≠ i) :
    s.tail ≠ s.head := by
  intro e
  have := (hsnap.span_pos hs hne).2
  rw [← e, State.span_self hs.tail_lt] at this
  exact absurd this (Nat.lt_irrefl 0)

theorem ClosedGrows.atCell {s t : State} (h : ClosedGrows s t) (hs : IndexOk s) {i : Nat} {u : Byte}
    (hat : AtCell s i u) : AtCell t i u := by
  obtain ⟨hsnap, hne, hcell⟩ := hat
  refine ⟨h.snapshot hs hsnap, h.tail ▸ hne, ?_⟩
  rw [h.tail, h.cell_of_span_lt hs hs.tail_lt ?_, hcell]
  rw [State.span_self hs.tail_lt]
  exact (hsnap.span_pos hs hne).2

/-- The cell `u` stays at `tail`, before the new `head`. -/
theorem ClosedGrows.atCell_head {s t : State} (h : ClosedGrows s t) (hs : IndexOk s) (ht : IndexOk t) {u : Byte}
    (hat : AtCell s s.head u) : AtCell t t.head u := by
  obtain ⟨hsnap, hne, hcell⟩ := h.atCell hs hat
  exact ⟨⟨ht.head_lt, Nat.le_refl _, .inl rfl⟩, hsnap.tail_ne_head ht hne, hcell⟩

theorem State.span_inc_self {s : State} {i : Nat} (hi : i < s.cfg.rbSize) (h : 3 ≤ s.cfg.rbSize) :
    s.span i (s.inc i) = 1 := by
  have hne : s.inc i ≠ i := by rw [State.inc_of_lt hi]; split <;> omega
  rw [State.span_inc_right hi hi hne, State.span_self hi]

theorem ClosedGrows.unitEnds {s t : State} (h : ClosedGrows s t) (hs : BufferOk s) {i : Nat} {u : Byte}
    (hat : AtCell s i u) : unitEnds t i = unitEnds s i := by
  obtain ⟨hsnap, hne, -⟩ := hat
  have hindex := hs.index
  have hinc := State.inc_lt hs.size s.tail
  unfold Machine.unitEnds State.cellIs
  rw [h.tail, inc_congr h.cfg]
  by_cases hends : s.inc s.tail = i
  · simp [hends]
  · have hone := State.span_inc_self hindex.tail_lt hs.size
    have hlt : s.span s.tail (s.inc s.tail) ≠ s.span s.tail i := fun e =>
      hends ((State.span_right_inj hindex.tail_lt hinc hsnap.1).mp e)
    have hpos := hsnap.span_pos hindex hne
    obtain ⟨-, hle, -⟩ := hsnap
    rw [h.cell_of_span_lt hindex hinc (by omega)]

theorem RelayPos.grows {s t : State} {ms : List Micro} (hs : BufferOk s) (ht : IndexOk t) (h : ClosedGrows s t)
    (hpos : RelayPos s ms) : RelayPos t ms := by
  have hindex := hs.index
  induction hpos with
  | done hunit => exact .done (h.atUnit hindex hunit)
  | startFrame b _ ih => exact .startFrame b ih
  | push b _ ih => exact .push b ih
  | readHead hunit => exact .readHead (h.atUnit hindex hunit)
  | readUnit hsnap hne hunit => exact .readUnit (h.snapshot hindex hsnap) (h.tail ▸ hne) (h.atUnit hindex hunit)
  | peekIdle hat hnext => exact .peekIdle (h.atCell hindex hat) (by rwa [h.tail, inc_congr h.cfg])
  | skipIdle hat hends =>
    refine .skipIdle (h.atCell_head hindex ht hat) ?_
    obtain ⟨hsnap, hne, -⟩ := hat
    rw [unitEnds_head_iff] at *
    rw [h.tail, inc_congr h.cfg]
    have hone := State.span_inc_self hindex.tail_lt hs.size
    have hpos := hsnap.span_pos hindex hne
    exact h.boundary hindex (State.inc_lt hs.size _) (by omega) hends
  | takePseudo hat hcode => exact .takePseudo (h.atCell_head hindex ht hat) hcode
  | peekStart hat hstart hnext =>
    exact .peekStart (h.atCell hindex hat) hstart (by rwa [h.tail, inc_congr h.cfg])
  | takeStart hat hstart hlast =>
    exact .takeStart (h.atCell hindex hat) hstart (hlast.trans (h.unitEnds hs hat).symm)
  | readBody hsnap hne hbody hdelta =>
    obtain ⟨hsnap', hne', hcell⟩ := h.atCell hindex ⟨hsnap, hne, rfl⟩
    exact .readBody hsnap' hne' ((congrArg isBody hcell).trans hbody) hdelta
  | peekBody hat hbody hnext hdelta =>
    exact .peekBody (h.atCell hindex hat) hbody (by rwa [h.tail, inc_congr h.cfg]) hdelta
  | takeBody hat hbody hlast hdelta =>
    exact .takeBody (h.atCell hindex hat) hbody (hlast.trans (h.unitEnds hs hat).symm) hdelta
  | testAndClear hunit hlen hpushes => exact .testAndClear (h.atUnit hindex hunit) hlen hpushes

/-- The states agree on the encoder's values that the invariant reads. -/
structure SameEncoder (s t : State) : Prop where
  active : t.encActive = s.encActive
  hb     : t.encHb = s.encHb
  cnt    : t.encCnt = s.encCnt
  n      : t.encN = s.encN

theorem SamePollSide.sameEncoder {s t : State} (h : SamePollSide s t) : SameEncoder s t :=
  ⟨h.encActive, h.encHb, h.encCnt, h.encN⟩

theorem SameEncoder.encOk {s t : State} (h : SameEncoder s t) (henc : EncOk s) : EncOk t := by
  unfold EncOk; rwa [h.hb, h.cnt, h.n]

theorem SameEncoder.encRest {s t : State} (h : SameEncoder s t) (henc : EncRest s) : EncRest t := by
  unfold EncRest; rwa [h.cnt, h.active, h.n]

/-- A step that keeps the encoder and what was closed keeps the position of the operation in progress. -/
theorem TodoPos.grows {s t : State} {ms : List Micro} (hs : BufferOk s) (ht : IndexOk t) (h : ClosedGrows s t)
    (henc : SameEncoder s t) (hpos : TodoPos s ms) : TodoPos t ms := by
  have hunit' := h.atUnit hs.index
  cases hpos with
  | idle hrest hunit => exact .idle (henc.encRest hrest) (hunit' hunit)
  | pushStart hrest hunit hstart => exact .pushStart (henc.encRest hrest) (hunit' hunit) hstart
  | pushPayload hrest hunit hactive hn =>
    exact .pushPayload (henc.encRest hrest) (hunit' hunit) (henc.active.trans hactive) (henc.n ▸ hn)
  | pushSideOfRun hunit hactive hcnt hn =>
    exact .pushSideOfRun (hunit' hunit) (henc.active.trans hactive) (henc.cnt.trans hcnt) (henc.n ▸ hn)
  | pushSideOfEnd hrest hunit hactive hcnt =>
    exact .pushSideOfEnd (henc.encRest hrest) (hunit' hunit) (henc.active.trans hactive) (henc.cnt ▸ hcnt)
  | pushCheck hunit hactive hcnt =>
    exact .pushCheck (hunit' hunit) (henc.active.trans hactive) (henc.cnt.trans hcnt)
  | pushIdle hrest hunit hactive =>
    exact .pushIdle (henc.encRest hrest) (hunit' hunit) (henc.active.trans hactive)
  | relay hrest hactive hlen hrelay =>
    exact .relay (henc.encRest hrest) (henc.active.trans hactive) hlen (hrelay.grows hs ht h)

theorem SamePollSide.outOk {s t : State} (h : SamePollSide s t) (hout : OutOk s) : OutOk t := by
  unfold OutOk State.roomFor
  rwa [h.syncRef, h.cfg, h.queued, h.out]

/-- A receive step keeps the invariant, whatever operation it preempts. -/
theorem rxByte_inv {s : State} (b : Byte) (fe ovr : Bool) (h : Inv s) : Inv (rxByte b fe ovr s) := by
  rw [inv_iff] at *
  obtain ⟨hbuffer, henc, hout, hpos⟩ := h
  obtain ⟨hbuffer', hgrows⟩ := rxByte_keepsBuffer b fe ovr s hbuffer
  have hside := rxByte_samePollSide b fe ovr s
  have hpos' := hpos.grows hbuffer hbuffer'.index hgrows hside.sameEncoder
  exact ⟨hbuffer', hside.sameEncoder.encOk henc, hside.outOk hout, hside.todo ▸ hpos'⟩

end Sys2Proof.Machine

/-! SUPPORT. Every micro-step of the relay (R200 to R209) keeps the invariants of the receive state and leads to a
position of the same call. -/

namespace Sys2Proof.Machine

/-- What the invariant says of a relay call in progress, beside the encoder and the outgoing queue. -/
structure RelayInv (s : State) : Prop where
  buffer : BufferOk s
  pos    : RelayPos s s.todo
  len    : s.todo.length ≤ 8

/-- The state with the micro-steps `ms` before those left, where both together are a position. -/
theorem RelayInv.before {s : State} {ms rest : List Micro} (hb : BufferOk s) (hr : s.todo = rest)
    (hpos : RelayPos s (ms ++ rest)) (hlen : (ms ++ rest).length ≤ 8) : RelayInv (s.before ms) where
  buffer := hb
  pos := by
    rw [State.before_todo, hr]
    exact hpos.grows (t := s.before ms) hb hb.index (.of_eq rfl rfl rfl rfl)
  len := by rwa [State.before_todo, hr]

/-! ## The cell at `tail` -/

theorem AtCell.tail_ne_head {s : State} {h : Nat} {u : Byte} (hs : IndexOk s) (hat : AtCell s h u) :
    s.tail ≠ s.head := by
  obtain ⟨hsnap, hne, -⟩ := hat
  exact hsnap.tail_ne_head hs hne

theorem AtCell.at_head {s : State} {h : Nat} {u : Byte} (hs : IndexOk s) (hat : AtCell s h u) :
    AtCell s s.head u := by
  have hne := hat.tail_ne_head hs
  obtain ⟨-, -, hcell⟩ := hat
  exact ⟨⟨hs.head_lt, Nat.le_refl _, .inl rfl⟩, hne, hcell⟩

/-- Where the unit ends behind the cell at `tail`, another begins, or the closed region ends. -/
theorem AtCell.boundary_inc {s : State} {h : Nat} {u : Byte} (hat : AtCell s h u) (hends : unitEnds s h = true) :
    Boundary s (s.inc s.tail) := by
  obtain ⟨⟨-, -, hb⟩, -, -⟩ := hat
  simp only [unitEnds, Bool.or_eq_true, beq_iff_eq] at hends
  rcases hends with e | hstart
  · rw [e]; exact hb
  · exact .inr hstart

/-- A pseudo unit is one cell long (R28 item 5). -/
theorem boundary_inc_of_pseudo {s : State} (hs : BufferOk s) (hne : s.tail ≠ s.head)
    (hcode : isPseudo (s.cell s.tail) = true) : Boundary s (s.inc s.tail) := by
  have hindex := hs.index
  have hinc := State.inc_lt hs.size s.tail
  have hone := State.span_inc_self hindex.tail_lt hs.size
  have hpos : s.span s.tail s.head ≠ 0 := fun e => hne ((State.span_eq_zero hindex.tail_lt hindex.head_lt).mp e)
  obtain ⟨-, -, -, -, -, -, hclosed⟩ := hs
  by_cases hlast : 1 < s.span s.tail s.head
  · have hstart := (hclosed 0 (by omega)).2 hcode hlast
    exact .inr ((congrArg isStart (s.cell_inc s.tail)).trans hstart)
  · exact .inl ((State.span_right_inj hindex.tail_lt hinc hindex.head_lt).mp (by omega))

/-! ## `tail` moves past a closed cell -/

theorem bufferOk_consumed {s : State} (hs : BufferOk s) (hne : s.tail ≠ s.head) : BufferOk s.consumed := by
  obtain ⟨hcfg, ⟨hhead, hwr, htail⟩, hmem, hdiscard, hopen, horder, hclosed⟩ := hs
  have hpos : s.span s.tail s.head ≠ 0 := fun e => hne ((State.span_eq_zero htail hhead).mp e)
  have hne' : s.tail ≠ s.wr := fun e => by
    have horder' : s.span s.tail s.head ≤ s.span s.tail s.wr := horder
    rw [← e, State.span_self htail] at horder'
    omega
  have hspan := State.span_inc_left htail hhead hne
  have hspan' := State.span_inc_left htail hwr hne'
  refine ⟨hcfg, ⟨hhead, hwr, State.inc_lt hcfg.1 _⟩, hmem, hdiscard, hopen, ?_, ?_⟩
  · change s.span (s.inc s.tail) s.head ≤ s.span (s.inc s.tail) s.wr
    omega
  · intro k hk
    change k < s.span (s.inc s.tail) s.head at hk
    change isCellValue (s.cell (s.inc s.tail + k)) = true ∧
      (isPseudo (s.cell (s.inc s.tail + k)) = true → k + 1 < s.span (s.inc s.tail) s.head →
        isStart (s.cell (s.inc s.tail + k + 1)) = true)
    rw [Nat.add_assoc, s.cell_inc_add, s.cell_inc_add]
    obtain ⟨hvalue, hone⟩ := hclosed (k + 1) (by omega)
    exact ⟨hvalue, fun hp hlast => hone hp (by omega)⟩

theorem snapshot_consumed {s : State} {h : Nat} (hs : IndexOk s) (hsnap : Snapshot s h) (hne : s.tail ≠ h) :
    Snapshot s.consumed h := by
  have hhead := hsnap.tail_ne_head hs hne
  obtain ⟨hlt, hle, hb⟩ := hsnap
  have hspan := State.span_inc_left hs.tail_lt hlt hne
  have hspan' := State.span_inc_left hs.tail_lt hs.head_lt hhead
  refine ⟨hlt, ?_, hb⟩
  change s.span (s.inc s.tail) h ≤ s.span (s.inc s.tail) s.head
  omega

/-- Inside a unit that goes on, the next cell is a body cell before the snapshot (R58). -/
theorem unitEnds_eq_false {s : State} {h : Nat} (hends : unitEnds s h = false) :
    s.inc s.tail ≠ h ∧ isBody (s.cell (s.inc s.tail)) = true := by
  simpa [unitEnds, isBody, State.cellIs] using hends

theorem unitEnds_of_inc_ne {s : State} {h : Nat} (hne : s.inc s.tail ≠ h) :
    unitEnds s h = isStart (s.cell (s.inc s.tail)) := by
  simp [unitEnds, State.cellIs, hne]

theorem unitEnds_of_inc_eq {s : State} {h : Nat} (heq : s.inc s.tail = h) : unitEnds s h = true := by
  simp [unitEnds, heq]

/-- A fixed frame of R90 is four pushes. -/
@[simp] theorem length_emitFixed_mgmtFrameOf (u : Byte) : (emitFixed (mgmtFrameOf u)).length = 4 := rfl
@[simp] theorem length_emitFixed_softFrame : (emitFixed softFrame).length = 4 := rfl

/-- A free value is drawn from its counter alone. -/
theorem drawn_eq (s : State) : ∃ d, s.drawn = { s with draws := d } := by
  unfold State.drawn
  split <;> exact ⟨_, rfl⟩

/-- Behind the last cell of a unit the test of `ovf` is next (R205, R207). -/
theorem relayPos_behind_unit {s : State} {h : Nat} {u : Byte} (hat : AtCell s h u) (hends : unitEnds s h = true) :
    RelayPos s.consumed [.testAndClear] :=
  .testAndClear (hat.boundary_inc hends) (by decide) rfl

/-- The test of `ovf` clears it and puts the report next, or finds it clear (R66). -/
theorem microTestAndClear_cases (s : State) :
    s.ovf = true ∧ microTestAndClear s = s.ovfCleared.before (emitFixed softFrame) ∨
    s.ovf = false ∧ microTestAndClear s = s := by
  unfold microTestAndClear
  cases s.ovf <;> simp

/-! ## The relay's micro-steps, one lemma each -/

section
variable {s : State} (hs : BufferOk s)
include hs

theorem microReadHead_relayInv (hr : s.todo = []) (hunit : AtUnit s) : RelayInv (microReadHead s) := by
  unfold microReadHead
  split
  · exact .before hs hr (.testAndClear hunit (by decide) rfl) (by decide)
  · exact .before hs hr (.readUnit ⟨hs.index.head_lt, Nat.le_refl _, .inl rfl⟩ ‹_› hunit) (by simp)

theorem forwardData_relayInv {h : Nat} {u : Byte} (hr : s.todo = []) (hat : AtCell s h u)
    (hstart : isLegalStart u = true) : RelayInv (forwardData h u s) := by
  unfold forwardData
  split
  · rename_i hend
    exact .before hs hr (.takeStart hat hstart (unitEnds_of_inc_eq hend).symm) (by simp)
  · exact .before hs hr (.peekStart hat hstart ‹_›) (by simp)

theorem microReadUnit_relayInv {t : State} {h : Nat} (hr : s.todo = []) (hsnap : Snapshot s h)
    (hne : s.tail ≠ h) (hm : microReadUnit h s = .next t) : RelayInv t := by
  have hat : AtCell s h (s.cell s.tail) := ⟨hsnap, hne, rfl⟩
  unfold microReadUnit dispatchUnit at hm
  split at hm
  · rename_i hidle
    rw [hidle] at hat
    split at hm
    · rename_i hend
      cases hm
      have hends := (unitEnds_head_iff s).mpr (hat.boundary_inc (unitEnds_of_inc_eq hend))
      exact .before hs hr (.skipIdle (hat.at_head hs.index) hends) (by simp)
    · cases hm
      exact .before hs hr (.peekIdle hat ‹_›) (by simp)
  · split at hm
    · cases hm
      exact .before hs hr (.takePseudo (hat.at_head hs.index) ‹_›) (by simp)
    · split at hm
      · cases hm
        exact forwardData_relayInv hs hr hat ‹_›
      · cases hm

theorem microPeekIdle_relayInv {h : Nat} (hr : s.todo = []) (hat : AtCell s h idleByte) :
    RelayInv (microPeekIdle h s) := by
  unfold microPeekIdle
  split
  · have hends : unitEnds s s.head = true := (unitEnds_head_iff s).mpr (.inr ‹_›)
    exact .before hs hr (.skipIdle (hat.at_head hs.index) hends) (by simp)
  · exact forwardData_relayInv hs hr hat rfl

theorem microSkipIdle_relayInv (hr : s.todo = []) (hat : AtCell s s.head idleByte)
    (hends : unitEnds s s.head = true) : RelayInv (microSkipIdle s) :=
  .before (bufferOk_consumed hs (hat.tail_ne_head hs.index)) hr (.readHead (hat.boundary_inc hends)) (by simp)

theorem microTakePseudo_relayInv {u : Byte} (hr : s.todo = []) (hat : AtCell s s.head u)
    (hcode : isPseudo u = true) : RelayInv (microTakePseudo u s) := by
  have hne := hat.tail_ne_head hs.index
  obtain ⟨-, -, hcell⟩ := hat
  have hb := bufferOk_consumed hs hne
  have hunit : AtUnit s.consumed := boundary_inc_of_pseudo hs hne (hcell ▸ hcode)
  obtain ⟨d, hd⟩ := drawn_eq s.consumed
  unfold microTakePseudo
  rw [hd]
  split
  · exact .before (s := { s.consumed with draws := d }) hb hr (.testAndClear hunit (by simp) rfl) (by simp)
  · exact .before (s := { s.consumed with draws := d }) hb hr
      (.startFrame _ (.push _ (.push _ (.push _ (.testAndClear hunit (by simp) rfl))))) (by simp)

theorem microPeekStart_relayInv {h : Nat} {u : Byte} (hr : s.todo = [.testAndClear]) (hat : AtCell s h u)
    (hstart : isLegalStart u = true) (hnext : s.inc s.tail ≠ h) : RelayInv (microPeekStart h u s) :=
  .before hs hr (.takeStart hat hstart (unitEnds_of_inc_ne hnext).symm) (by simp)

/-- Behind a cell of a unit that goes on a body cell is next (R205). -/
theorem relayPos_inside_unit {h : Nat} {u d : Byte} (hat : AtCell s h u) (hends : unitEnds s h = false)
    (hdelta : DeltaOk d) : RelayPos s.consumed [.readBody h d, .testAndClear] := by
  obtain ⟨hnext, hbody⟩ := unitEnds_eq_false hends
  obtain ⟨hsnap, hne, -⟩ := hat
  exact .readBody (snapshot_consumed hs.index hsnap hne) hnext hbody hdelta

theorem microTakeStart_relayInv {h : Nat} {u : Byte} {last : Bool} (hr : s.todo = [.testAndClear])
    (hat : AtCell s h u) (hstart : isLegalStart u = true) (hlast : last = unitEnds s h) :
    RelayInv (microTakeStart h u last s) := by
  have hb := bufferOk_consumed hs (hat.tail_ne_head hs.index)
  unfold microTakeStart
  split
  · exact .before hb hr (.startFrame _ (relayPos_behind_unit hat (by simp_all))) (by simp)
  · exact .before hb hr (.startFrame _ (relayPos_inside_unit hs hat (by simp_all) (deltaOk_nextHop hstart)))
      (by simp)

theorem microReadBody_relayInv {h : Nat} {d : Byte} (hr : s.todo = [.testAndClear]) (hsnap : Snapshot s h)
    (hne : s.tail ≠ h) (hbody : s.cellIs s.tail isBody = true) (hdelta : DeltaOk d) :
    RelayInv (microReadBody h d s) := by
  have hat : AtCell s h (s.cell s.tail) := ⟨hsnap, hne, rfl⟩
  unfold microReadBody
  split
  · rename_i hend
    exact .before hs hr (.takeBody hat hbody (unitEnds_of_inc_eq hend).symm hdelta) (by simp)
  · exact .before hs hr (.peekBody hat hbody ‹_› hdelta) (by simp)

theorem microPeekBody_relayInv {h : Nat} {d b : Byte} (hr : s.todo = [.testAndClear]) (hat : AtCell s h b)
    (hbody : isBody b = true) (hnext : s.inc s.tail ≠ h) (hdelta : DeltaOk d) :
    RelayInv (microPeekBody h d b s) :=
  .before hs hr (.takeBody hat hbody (unitEnds_of_inc_ne hnext).symm hdelta) (by simp)

theorem microTakeBody_relayInv {h : Nat} {d b : Byte} {last : Bool} (hr : s.todo = [.testAndClear])
    (hat : AtCell s h b) (hlast : last = unitEnds s h) (hdelta : DeltaOk d) :
    RelayInv (microTakeBody h d b last s) := by
  have hb := bufferOk_consumed hs (hat.tail_ne_head hs.index)
  unfold microTakeBody
  split
  · exact .before hb hr (.push _ (relayPos_behind_unit hat (by simp_all))) (by simp)
  · exact .before hb hr (.push _ (relayPos_inside_unit hs hat (by simp_all) hdelta)) (by simp)

theorem microTestAndClear_relayInv {rest : List Micro} (hr : s.todo = rest) (hunit : AtUnit s)
    (hlen : rest.length ≤ 4) (hpushes : afterPushes rest = []) : RelayInv (microTestAndClear s) := by
  have hrest : RelayPos s rest := relayPos_afterPushes.mp (hpushes ▸ .done hunit)
  obtain ⟨-, e⟩ | ⟨-, e⟩ := microTestAndClear_cases s <;> rw [e]
  · refine .before (s := s.ovfCleared) hs hr ?_ (by simp; omega)
    have hrest' := hrest.grows (t := s.ovfCleared) hs hs.index (.of_eq rfl rfl rfl rfl)
    exact .startFrame _ (.push _ (.push _ (.push _ hrest')))
  · exact ⟨hs, hr ▸ hrest, by rw [hr]; omega⟩

end

/-- A push leaves the receive state and the rest of the call as they are. -/
theorem RelayInv.pushed {s : State} (b : Byte) (h : RelayInv s) : RelayInv (s.pushed b) :=
  ⟨h.buffer, h.pos.grows (t := s.pushed b) h.buffer h.buffer.index (.of_eq rfl rfl rfl rfl), h.len⟩

theorem RelayInv.trackerReset {s : State} (h : RelayInv s) : RelayInv s.trackerReset :=
  ⟨h.buffer, h.pos.grows (t := s.trackerReset) h.buffer h.buffer.index (.of_eq rfl rfl rfl rfl), h.len⟩

/-- Every micro-step of a relay call leads to a position of the call. -/
theorem microStep_relayInv {s t : State} {m : Micro} {rest : List Micro} (hs : BufferOk s) (hr : s.todo = rest)
    (hpos : RelayPos s (m :: rest)) (hlen : rest.length ≤ 8) (hm : microStep m s = .next t) : RelayInv t := by
  cases hpos with
  | startFrame b hrest =>
    cases hm
    have hinv : RelayInv s := ⟨hs, hr ▸ hrest, hr ▸ hlen⟩
    exact hinv.trackerReset.pushed b
  | push b hrest =>
    cases hm
    have hinv : RelayInv s := ⟨hs, hr ▸ hrest, hr ▸ hlen⟩
    exact hinv.pushed b
  | readHead hunit => cases hm; exact microReadHead_relayInv hs hr hunit
  | readUnit hsnap hne hunit => exact microReadUnit_relayInv hs hr hsnap hne hm
  | peekIdle hat hnext => cases hm; exact microPeekIdle_relayInv hs hr hat
  | skipIdle hat hends => cases hm; exact microSkipIdle_relayInv hs hr hat hends
  | takePseudo hat hcode => cases hm; exact microTakePseudo_relayInv hs hr hat hcode
  | peekStart hat hstart hnext => cases hm; exact microPeekStart_relayInv hs hr hat hstart hnext
  | takeStart hat hstart hlast => cases hm; exact microTakeStart_relayInv hs hr hat hstart hlast
  | readBody hsnap hne hbody hdelta => cases hm; exact microReadBody_relayInv hs hr hsnap hne hbody hdelta
  | peekBody hat hbody hnext hdelta => cases hm; exact microPeekBody_relayInv hs hr hat hbody hnext hdelta
  | takeBody hat hbody hlast hdelta => cases hm; exact microTakeBody_relayInv hs hr hat hlast hdelta
  | testAndClear hunit hlen' hpushes => cases hm; exact microTestAndClear_relayInv hs hr hunit hlen' hpushes

end Sys2Proof.Machine

/-! SUPPORT. Every micro-step, every operation and every step keeps the invariant of the block. -/

namespace Sys2Proof.Machine

theorem inv_of_todo {t : State} {ms : List Micro} (ht : t.todo = ms) (hb : BufferOk t) (henc : EncOk t)
    (hout : OutOk t) (hpos : TodoPos t ms) : Inv t :=
  (inv_iff t).mpr ⟨hb, henc, hout, ht ▸ hpos⟩

/-! ## Pushes -/

theorem streamBytes_append (o p : List Symbol) : streamBytes (o ++ p) = streamBytes o ++ streamBytes p := by
  induction o with
  | nil => rfl
  | cons x o ih => cases x <;> simp [streamBytes, ih]

theorem OutOk.pushed {s : State} (b : Byte) (h : OutOk s) (hroom : s.roomFor 1 = true) :
    OutOk (s.pushed b) := by
  obtain ⟨href, hqueued, -⟩ := h
  refine ⟨href, ?_, State.roomFor_pushed b hroom⟩
  simpa [streamBytes_append, streamBytes] using hqueued

/-- A running operation whose next micro-step pushes finds a free slot (R73). -/
theorem roomFor_of_running {s : State} {m : Micro} {rest : List Micro} (hr : s.running = true)
    (ht : s.todo = m :: rest) (hm : m.pushes = true) : s.roomFor 1 = true := by
  simp only [State.running, State.held, ht, hm, Bool.and_eq_true] at hr
  simpa using hr.2

/-! ## The encoder's micro-steps -/

/-- The accumulator holds one bit per byte of the run (R31, R122). -/
theorem sideBit_or_lt {hb : BitVec 7} {n : Nat} (b : Byte) (hlt : hb.toNat < 2 ^ n) :
    (hb ||| sideBit b n).toNat < 2 ^ (n + 1) := by
  rw [BitVec.toNat_or]
  refine Nat.or_lt_two_pow (hlt.trans (Nat.pow_lt_pow_right (by decide) (Nat.lt_succ_self n))) ?_
  have hbit : (BitVec.zeroExtend 7 (BitVec.ofBool b[7])).toNat ≤ 1 := by cases b[7] <;> decide
  rw [sideBit, BitVec.toNat_shiftLeft, Nat.shiftLeft_eq]
  calc _ ≤ (BitVec.zeroExtend 7 (BitVec.ofBool b[7])).toNat * 2 ^ n := Nat.mod_le _ _
    _ ≤ 1 * 2 ^ n := Nat.mul_le_mul_right _ hbit
    _ < 2 ^ (n + 1) := by rw [one_mul]; exact Nat.pow_lt_pow_right (by decide) (Nat.lt_succ_self n)

/-- Between runs the accumulator is empty (R31, R123). -/
theorem encOk_of_cleared {s : State} (hhb : s.encHb = 0) (hcnt : s.encCnt = 0) (hn : s.encN ≤ payloadMax) :
    EncOk s := by
  unfold EncOk
  rw [hhb, hcnt]
  exact ⟨by decide, by decide, hn⟩

theorem encRest_of_cleared {s : State} (hcnt : s.encCnt = 0)
    (hn : s.encActive = true → s.encN % runLen = 0) : EncRest s := by
  unfold EncRest
  rw [hcnt]
  exact ⟨by decide, fun h => (hn h).symm⟩

/-- The side-channel byte empties the accumulator, and what the operation still has to do goes on. -/
theorem microPushSide_inv {s : State} {rest : List Micro} (hs : BufferOk s) (hout : OutOk s)
    (hroom : s.roomFor 1 = true) (hr : s.todo = rest) (henc : EncOk s)
    (hpos : TodoPos (microPushSide s) rest) : Inv (microPushSide s) := by
  obtain ⟨-, -, hn⟩ := henc
  exact inv_of_todo hr hs (encOk_of_cleared rfl rfl hn) (hout.pushed _ hroom) hpos

section
variable {s : State} (hs : BufferOk s) (hout : OutOk s) (hroom : s.roomFor 1 = true) (hunit : AtUnit s)
include hs hout hroom hunit

theorem microPushStart_inv (b : Byte) (hr : s.todo = []) : Inv (microPushStart b s) :=
  inv_of_todo hr hs (encOk_of_cleared rfl rfl (Nat.zero_le _)) (hout.pushed b hroom)
    (.idle (encRest_of_cleared rfl fun _ => rfl) hunit)

theorem microPushPayload_inv (b : Byte) (hr : s.todo = []) (henc : EncOk s) (hrest : EncRest s)
    (hactive : s.encActive = true) (hn : s.encN < payloadMax) : Inv (microPushPayload b s) := by
  obtain ⟨hhb, -, -⟩ := henc
  obtain ⟨hcnt, hmod⟩ := hrest
  replace hmod : s.encCnt = s.encN % 7 := hmod hactive
  have hhb' := sideBit_or_lt b hhb
  have hrun : runLen = 7 := rfl
  unfold microPushPayload
  split
  · rename_i hfull
    refine inv_of_todo (ms := [.pushSide]) (by simp [hr]) hs ⟨hhb', hcnt, hn⟩ (hout.pushed _ hroom)
      (.pushSideOfRun hunit hactive hfull ?_)
    change (s.encN + 1) % 7 = 0
    omega
  · refine inv_of_todo hr hs ⟨hhb', hcnt, hn⟩ (hout.pushed _ hroom) (.idle ⟨?_, fun _ => ?_⟩ hunit)
    · change s.encCnt + 1 < runLen
      omega
    · change s.encCnt + 1 = (s.encN + 1) % 7
      omega

theorem microPushCheck_inv (hr : s.todo = []) (henc : EncOk s) (hcnt : s.encCnt = 0) : Inv (microPushCheck s) :=
  inv_of_todo hr hs henc (hout.pushed _ hroom) (.idle (encRest_of_cleared hcnt nofun) hunit)

theorem microPushIdle_inv (hr : s.todo = []) (henc : EncOk s) (hrest : EncRest s) : Inv (microPushIdle s) :=
  inv_of_todo hr hs henc (hout.pushed _ hroom) (.idle hrest hunit)

end

/-! ## The relay's micro-steps beside the buffer -/

/-- A micro-step that does not push, the test of `ovf` apart, writes nothing but the rest of the operation, `tail`
and the counter of free values. -/
theorem microStep_eq_of_not_pushes {m : Micro} {s t : State} (hm : m.pushes = false) (htest : m ≠ .testAndClear)
    (h : microStep m s = .next t) : ∃ ms tl d, t = { s with todo := ms, tail := tl, draws := d } := by
  have forward : ∀ h u, ∃ ms tl d, forwardData h u s = { s with todo := ms, tail := tl, draws := d } := by
    intro h u
    unfold forwardData
    split <;> exact ⟨_, _, _, rfl⟩
  cases m with
  | readHead =>
    cases h
    unfold microReadHead
    split <;> exact ⟨_, _, _, rfl⟩
  | readUnit h' =>
    simp only [microStep, microReadUnit, dispatchUnit] at h
    split at h
    · split at h <;> cases h <;> exact ⟨_, _, _, rfl⟩
    · split at h
      · cases h; exact ⟨_, _, _, rfl⟩
      · split at h
        · cases h; exact forward _ _
        · cases h
  | peekIdle h' =>
    cases h
    unfold microPeekIdle
    split
    · exact ⟨_, _, _, rfl⟩
    · exact forward _ _
  | skipIdle => cases h; exact ⟨_, _, _, rfl⟩
  | takePseudo u =>
    cases h
    obtain ⟨d, hd⟩ := drawn_eq s.consumed
    unfold microTakePseudo
    rw [hd]
    split <;> exact ⟨_, _, _, rfl⟩
  | peekStart h' u => cases h; exact ⟨_, _, _, rfl⟩
  | takeStart h' u last =>
    cases h
    unfold microTakeStart
    split <;> exact ⟨_, _, _, rfl⟩
  | readBody h' d =>
    cases h
    unfold microReadBody
    split <;> exact ⟨_, _, _, rfl⟩
  | peekBody h' d b => cases h; exact ⟨_, _, _, rfl⟩
  | takeBody h' d b last =>
    cases h
    unfold microTakeBody
    split <;> exact ⟨_, _, _, rfl⟩
  | testAndClear => exact absurd rfl htest
  | startFrame | push | pushStart | pushPayload | pushSide | pushCheck | pushIdle => cases hm

/-- A micro-step of the relay leaves the encoder alone. -/
theorem microStep_relay_sides {s t : State} {m : Micro} {rest : List Micro} (hpos : RelayPos s (m :: rest))
    (hout : OutOk s) (hroom : m.pushes = true → s.roomFor 1 = true) (h : microStep m s = .next t) :
    SameEncoder s t ∧ OutOk t := by
  by_cases htest : m = .testAndClear
  · subst htest
    cases h
    obtain ⟨-, e⟩ | ⟨-, e⟩ := microTestAndClear_cases s <;> rw [e] <;> exact ⟨⟨rfl, rfl, rfl, rfl⟩, hout⟩
  · cases hm : m.pushes with
    | false =>
      obtain ⟨ms, tl, d, rfl⟩ := microStep_eq_of_not_pushes hm htest h
      exact ⟨⟨rfl, rfl, rfl, rfl⟩, hout⟩
    | true =>
      cases hpos with
      | startFrame b => cases h; exact ⟨⟨rfl, rfl, rfl, rfl⟩, hout.pushed b (hroom hm)⟩
      | push b => cases h; exact ⟨⟨rfl, rfl, rfl, rfl⟩, hout.pushed b (hroom hm)⟩
      | _ => cases hm

/-! ## Every micro-step -/

/-- One micro-step, already taken off the operation in progress, from its position. -/
theorem microStep_inv_of_pos {s t : State} {m : Micro} {rest : List Micro} (hb : BufferOk s) (henc : EncOk s)
    (hout : OutOk s) (hr : s.todo = rest) (hpos : TodoPos s (m :: rest))
    (hroom : m.pushes = true → s.roomFor 1 = true) (hm : microStep m s = .next t) : Inv t := by
  cases hpos with
  | pushStart hrest hunit hstart => cases hm; exact microPushStart_inv hb hout (hroom rfl) hunit _ hr
  | pushPayload hrest hunit hactive hn =>
    cases hm; exact microPushPayload_inv hb hout (hroom rfl) hunit _ hr henc hrest hactive hn
  | pushSideOfRun hunit hactive hcnt hn =>
    cases hm
    exact microPushSide_inv hb hout (hroom rfl) hr henc
      (.idle (encRest_of_cleared rfl fun _ => hn) hunit)
  | pushSideOfEnd hrest hunit hactive hcnt =>
    cases hm
    exact microPushSide_inv hb hout (hroom rfl) hr henc (.pushCheck hunit hactive rfl)
  | pushCheck hunit hactive hcnt => cases hm; exact microPushCheck_inv hb hout (hroom rfl) hunit hr henc hcnt
  | pushIdle hrest hunit hactive => cases hm; exact microPushIdle_inv hb hout (hroom rfl) hunit hr henc hrest
  | relay hrest hactive hlen hrelay =>
    obtain ⟨hb', hpos', hlen'⟩ := microStep_relayInv hb hr hrelay (by simp at hlen; omega) hm
    obtain ⟨hsame, hout'⟩ := microStep_relay_sides hrelay hout hroom hm
    exact inv_of_todo rfl hb' (hsame.encOk henc) hout'
      (.relay (hsame.encRest hrest) (hsame.active.trans hactive) hlen' hpos')

theorem microStep_inv {s t : State} {m : Micro} {rest : List Micro} (hs : Inv s) (ht : s.todo = m :: rest)
    (hroom : m.pushes = true → s.roomFor 1 = true) (hm : microStep m { s with todo := rest } = .next t) :
    Inv t := by
  obtain ⟨hb, henc, hout, hpos⟩ := (inv_iff s).mp hs
  rw [ht] at hpos
  have hpos' : TodoPos { s with todo := rest } (m :: rest) :=
    hpos.grows hb hb.index (.of_eq rfl rfl rfl rfl) ⟨rfl, rfl, rfl, rfl⟩
  exact microStep_inv_of_pos (s := { s with todo := rest }) hb henc hout rfl hpos' hroom hm

/-- The schedule is no part of the invariant. -/
theorem inv_withAgenda {s : State} (es : List Event) (h : Inv s) : Inv { s with agenda := es } := h

theorem ticked_inv {s : State} (h : Inv s) : Inv s.ticked := by
  obtain ⟨es, hes⟩ := s.ticked_eq
  rw [hes]
  exact inv_withAgenda es h

/-! ## Running -/

/-- What every micro-step of a running operation keeps holds wherever the operation stops. -/
theorem run_induction {P : State → Prop} {n : Nat} {s t : State}
    (hstep : ∀ (s t : State) (m : Micro) (rest : List Micro), P s → s.running = true → s.todo = m :: rest →
      microStep m { s with todo := rest } = .next t → P t.ticked)
    (hs : P s) (h : run n s = .next t) : P t := by
  induction n generalizing s with
  | zero => cases h; exact hs
  | succ n ih =>
    cases hto : s.todo with
    | nil => rw [run_nil hto] at h; cases h; exact hs
    | cons m rest =>
      cases hr : s.running with
      | false => rw [run_stops hr] at h; cases h; exact hs
      | true =>
        cases hm : microStep m { s with todo := rest } with
        | next u =>
          rw [run_succ hr hto hm] at h
          exact ih (hstep s u m rest hs hr hto hm) h
        | fault f => simp [run, hto, hr, hm] at h
        | refused r => simp [run, hto, hr, hm] at h

theorem run_inv {n : Nat} {s t : State} (hs : Inv s) (h : run n s = .next t) : Inv t :=
  run_induction (P := Inv)
    (fun _ _ _ _ hs hr hto hm => ticked_inv (microStep_inv hs hto (roomFor_of_running hr hto) hm)) hs h

theorem begin_inv {ms : List Micro} {s t : State} (hb : BufferOk s) (henc : EncOk s) (hout : OutOk s)
    (hpos : TodoPos s ms) (h : begin ms s = .next t) : Inv t :=
  run_inv (s := { s with todo := ms }) ⟨hb, henc, hout, hpos.todoOk⟩ h

/-! ## Every operation -/

/-- Whatever has been pushed before, the state after reset meets the invariant (R28, R263). -/
theorem reset_inv {c : Config} {m : Memory} {o : List Symbol} {q : Nat} (es : List Event) (d : Nat) (hc : c.Legal)
    (hm : m.fits c) (hqueued : q ≤ (streamBytes o).length)
    (hroom : { State.resetWith c m with queued := q }.roomFor 0 = true) :
    Inv { State.resetWith c m with out := o, queued := q, agenda := es, draws := d } := by
  have hsize := hc.1
  have hzero : 0 < c.rbSize := by omega
  have hspan : (State.resetWith c m).span 0 0 = 0 := State.span_self hzero
  have hclosed : ClosedOk (State.resetWith c m) := by
    intro k hk
    change k < (State.resetWith c m).span 0 0 at hk
    omega
  have hbuffer : BufferOk (State.resetWith c m) :=
    ⟨hc, ⟨hzero, hzero, hzero⟩, hm, fun _ => rfl, nofun, Nat.le_refl _, hclosed⟩
  exact inv_of_todo rfl hbuffer (encOk_of_cleared rfl rfl (Nat.zero_le _)) ⟨Nat.two_pow_pos _, hqueued, hroom⟩
    (.idle (encRest_of_cleared rfl nofun) (.inl rfl))

/-- Settles O6: nothing is pushed, and the queue is empty. -/
theorem resetStateMeetsInvariant : Obligations.ResetStateMeetsInvariant := by
  intro c m hc hm
  refine reset_inv (o := []) (q := 0) [] 0 hc hm (Nat.zero_le _) ?_
  unfold State.roomFor
  split
  · rfl
  · simp

/-- What the invariant says between operations. -/
theorem Inv.at_rest {s : State} (hs : Inv s) (ht : s.todo = []) : EncRest s ∧ AtUnit s := by
  obtain ⟨-, -, -, hpos⟩ := (inv_iff s).mp hs
  rw [ht] at hpos
  cases hpos with
  | idle hrest hunit => exact ⟨hrest, hunit⟩
  | relay hrest _ _ hrelay =>
    cases hrelay with
    | done hunit => exact ⟨hrest, hunit⟩

section
variable {s t : State} (hs : Inv s) (ht : s.todo = [])
include hs ht

theorem execStart_inv {p : BitVec 4} (h : execStart p s = .next t) : Inv t := by
  obtain ⟨hrest, hunit⟩ := hs.at_rest ht
  obtain ⟨hb, henc, hout, -⟩ := hs
  exact begin_inv hb henc hout (.pushStart hrest hunit (isLegalStart_startByte_local p)) h

theorem execSend_inv {b : Byte} (h : execSend b s = .next t) : Inv t := by
  obtain ⟨hrest, hunit⟩ := hs.at_rest ht
  obtain ⟨hb, henc, hout, -⟩ := hs
  unfold execSend at h
  split at h
  · cases h
  · split at h
    · cases h
    · rename_i hactive hfull
      have ⟨_, _, hn⟩ := henc
      exact begin_inv hb henc hout
        (.pushPayload hrest hunit (by simpa using hactive) (Nat.lt_of_le_of_ne hn hfull)) h

theorem execEndFrame_inv (h : execEndFrame s = .next t) : Inv t := by
  obtain ⟨hrest, hunit⟩ := hs.at_rest ht
  obtain ⟨hb, henc, hout, -⟩ := hs
  unfold execEndFrame at h
  split at h
  · cases h
  · rename_i hactive
    replace hactive : s.encActive = true := by simpa using hactive
    split at h
    · exact begin_inv hb henc hout (.pushSideOfEnd hrest hunit hactive ‹_›) h
    · exact begin_inv hb henc hout (.pushCheck hunit hactive (by simpa using ‹¬ s.encCnt ≠ 0›)) h

theorem execPoll_inv (h : execPoll s = .next t) : Inv t := by
  obtain ⟨hrest, hunit⟩ := hs.at_rest ht
  obtain ⟨hb, henc, hout, -⟩ := hs
  unfold execPoll at h
  split at h
  · cases h
  · rename_i hactive
    exact begin_inv hb henc hout (.relay hrest (by simpa using hactive) (by simp) (.readHead hunit)) h

theorem execTick_inv {idle : Bool} (h : execTick idle s = .next t) : Inv t := by
  obtain ⟨hrest, hunit⟩ := hs.at_rest ht
  obtain ⟨hb, henc, hout, hpos⟩ := hs
  unfold execTick at h
  split at h
  · rename_i hdue
    have hactive : s.encActive = false := by
      simp only [State.idleDue, Bool.and_eq_true, Bool.not_eq_true'] at hdue
      exact hdue.2
    exact begin_inv (s := s.idleTicked) hb henc hout (.pushIdle hrest hunit hactive) h
  · cases h
    exact inv_of_todo ht hb henc hout (.idle hrest hunit)

theorem execSync_inv {now : Nat} (h : execSync now s = .next t) : Inv t := by
  obtain ⟨hrest, hunit⟩ := hs.at_rest ht
  have ⟨hb, henc, ⟨_, hqueued, hroom⟩, _⟩ := hs
  unfold execSync at h
  split at h
  · cases h
  · split at h
    · cases h
      refine inv_of_todo ht hb henc ⟨Nat.mod_lt _ (Nat.two_pow_pos _), ?_, hroom⟩ (.idle hrest hunit)
      simpa [streamBytes_append, streamBytes] using hqueued
    · cases h
      exact hs

theorem exec_inv {i : Instr} (h : exec i s = .next t) : Inv t := by
  cases hrx : isReceive i with
  | true =>
    obtain ⟨b, fe, ovr, rfl⟩ := exists_rxInstr_of_isReceive hrx
    rw [exec_rxInstr] at h
    cases h
    exact rxByte_inv b fe ovr hs
  | false =>
    cases i with
    | start p => exact execStart_inv hs ht h
    | send b => exact execSend_inv hs ht h
    | endFrame => exact execEndFrame_inv hs ht h
    | poll => exact execPoll_inv hs ht h
    | tick idle => exact execTick_inv hs ht h
    | sync now => exact execSync_inv hs ht h
    | reset =>
      cases h
      obtain ⟨⟨hc, -, hm, -⟩, -, ⟨-, hqueued, hroom⟩, -⟩ := hs
      exact reset_inv s.agenda s.draws hc hm hqueued hroom
    | rx b | rxOvr b | rxFe b | rxFeOvr b => cases hrx

end

/-! ## Every step -/

theorem drained_inv {s : State} (hs : Inv s) : Inv s.drained := by
  obtain ⟨hb, henc, ⟨href, hqueued, hroom⟩, hpos⟩ := hs
  refine ⟨hb, henc, ⟨href, (Nat.sub_le _ _).trans hqueued, ?_⟩, hpos⟩
  cases hq : s.cfg.outqSize with
  | none => simp [State.roomFor, hq]
  | some k =>
    simp only [State.roomFor, hq, decide_eq_true_eq] at hroom
    have hfits : s.queued - 1 ≤ k := by omega
    simpa [State.roomFor, hq] using hfits

/-- Settles O46, by what a step can do: go on with the operation in progress, take a byte or a drainer step, run the
next command, or nothing. -/
theorem stepKeepsInvariant : Obligations.StepKeepsInvariant := by
  intro s t hs h
  obtain ⟨-, hresume⟩ | ⟨_, b, fe, ovr, es, -, rfl⟩ | ⟨_, es, -, rfl⟩ | ⟨_, es, i, ht, -, -, hexec⟩ | ⟨-, rfl⟩ :=
    step_cases h
  · exact run_inv hs hresume
  · exact rxByte_inv b fe ovr (inv_withAgenda es hs)
  · exact drained_inv (inv_withAgenda es hs)
  · exact exec_inv (inv_withAgenda es hs) ht hexec
  · exact hs

end Sys2Proof.Machine

/-! SUPPORT. The sticky overflow flag (R26): no operation but POLL and RESET clears it, and POLL clears it only with
the Soft-Overflow report behind it (R66, R232). -/

namespace Sys2Proof.Machine

/-! ## The operations of the encoder and the Idle/Sync Manager -/

/-- A micro-step of the Frame Encoder or the Idle/Sync Manager. -/
def Micro.originates : Micro → Bool
  | .pushStart _ | .pushPayload _ | .pushSide | .pushCheck | .pushIdle => true
  | _ => false

/-- What is left of an originating operation that has kept `tail` and `ovf` of `s` (R59, R126, R145). -/
structure Originating (s t : State) : Prop where
  todo : ∀ m ∈ t.todo, m.originates = true
  tail : t.tail = s.tail
  ovf  : t.ovf = s.ovf

theorem Originating.ticked {s t : State} (h : Originating s t) : Originating s t.ticked := by
  obtain ⟨es, hes⟩ := t.ticked_eq
  rw [hes]
  exact ⟨h.todo, h.tail, h.ovf⟩

theorem microStep_originating {m : Micro} {s t : State} (hm : m.originates = true)
    (hrest : ∀ m ∈ s.todo, m.originates = true) (h : microStep m s = .next t) : Originating s t := by
  cases m with
  | pushStart b => cases h; exact ⟨hrest, rfl, rfl⟩
  | pushPayload b =>
    cases h
    unfold microPushPayload
    split
    · exact ⟨List.forall_mem_cons.mpr ⟨rfl, hrest⟩, rfl, rfl⟩
    · exact ⟨hrest, rfl, rfl⟩
  | pushSide => cases h; exact ⟨hrest, rfl, rfl⟩
  | pushCheck => cases h; exact ⟨hrest, rfl, rfl⟩
  | pushIdle => cases h; exact ⟨hrest, rfl, rfl⟩
  | _ => cases hm

theorem begin_originating {ms : List Micro} {s t : State} (hms : ∀ m ∈ ms, m.originates = true)
    (h : begin ms s = .next t) : Originating s t := by
  refine run_induction (P := Originating s) (s := { s with todo := ms }) (fun u v m rest hu _ hto hm => ?_)
    ⟨hms, rfl, rfl⟩ h
  obtain ⟨hm', hrest⟩ := List.forall_mem_cons.mp (hto ▸ hu.todo)
  have hv := microStep_originating hm' hrest hm
  exact Originating.ticked ⟨hv.todo, hv.tail.trans hu.tail, hv.ovf.trans hu.ovf⟩

/-- The operations of the Frame Encoder and the Idle/Sync Manager write neither `tail` nor `ovf` (R126, R145). -/
theorem exec_originating_frame {i : Instr} {s t : State} (hi : isOriginating i = true) (h : exec i s = .next t) :
    t.tail = s.tail ∧ t.ovf = s.ovf := by
  have of_begin {ms : List Micro} {u : State} (hms : ∀ m ∈ ms, m.originates = true) (h : begin ms u = .next t) :
      t.tail = u.tail ∧ t.ovf = u.ovf :=
    ⟨(begin_originating hms h).tail, (begin_originating hms h).ovf⟩
  cases i with
  | start p =>
    simp only [exec, execStart] at h
    exact of_begin (by simp [Micro.originates]) h
  | send b =>
    simp only [exec, execSend] at h
    split at h
    · cases h
    · split at h
      · cases h
      · exact of_begin (by simp [Micro.originates]) h
  | endFrame =>
    simp only [exec, execEndFrame] at h
    split at h
    · cases h
    · split at h
      · exact of_begin (by simp [Micro.originates]) h
      · exact of_begin (by simp [Micro.originates]) h
  | tick idle =>
    simp only [exec, execTick] at h
    split at h
    · exact of_begin (u := s.idleTicked) (by simp [Micro.originates]) h
    · cases h; exact ⟨rfl, rfl⟩
  | sync now =>
    simp only [exec, execSync] at h
    split at h
    · cases h
    · split at h <;> cases h <;> exact ⟨rfl, rfl⟩
  | rx | rxOvr | rxFe | rxFeOvr | poll | reset => cases hi

/-! ## The receive operations -/

section
variable {s : State} (h : s.ovf = true)
include h

theorem inject_ovf (code : Byte) : (inject code s).ovf = true := by
  unfold inject
  split
  · exact h
  · rfl

theorem placeStart_ovf (b : Byte) : (placeStart b s).ovf = true := by
  unfold placeStart
  split <;> exact h

theorem admitStart_ovf (b : Byte) : (admitStart b s).ovf = true := by
  unfold admitStart
  split
  · rfl
  · exact placeStart_ovf h b

theorem overrun_ovf (b : Byte) : (overrun b s).ovf = true := by
  have hcode := inject_ovf (s := abandon s) h rbHovf
  unfold overrun
  split
  · exact admitStart_ovf hcode b
  · exact hcode

theorem bodyWhileOpen_ovf (b : Byte) : (bodyWhileOpen b s).ovf = true := by
  unfold bodyWhileOpen
  split
  · exact h
  · split
    · exact h
    · rfl

theorem startWhileOpen_ovf (b : Byte) : (startWhileOpen b s).ovf = true := by
  unfold startWhileOpen
  split
  · exact placeStart_ovf (s := closeOpen s) h b
  · unfold startNoRoom
    split
    · split <;> exact h
    · rfl

/-- A receive step never clears `ovf` (R26). -/
theorem rxByte_ovf (b : Byte) (fe ovr : Bool) : (rxByte b fe ovr s).ovf = true := by
  unfold rxByte
  split
  · exact inject_ovf (s := abandon s) h rbMal
  · split
    · exact overrun_ovf h b
    · split
      · exact bodyWhileOpen_ovf h b
      · exact h
      · exact admitStart_ovf h b
      · exact startWhileOpen_ovf h b

end

/-! ## The relay -/

/-- The bytes that the leading pushes of the relay still have to push. -/
def promisedBytes : List Micro → List Byte
  | .startFrame b :: ms => b :: promisedBytes ms
  | .push b :: ms       => b :: promisedBytes ms
  | _                   => []

/-- The outgoing stream as it stands once the leading pushes of the operation in progress are done. -/
def State.promised (s : State) : List Symbol := s.out ++ symbols (promisedBytes s.todo)

/-- No micro-step takes back what has been promised. -/
theorem microStep_promised {m : Micro} {rest : List Micro} {s t : State} (hto : s.todo = m :: rest)
    (h : microStep m { s with todo := rest } = .next t) : ∃ o, t.promised = s.promised ++ o := by
  have of_none (hnone : promisedBytes (m :: rest) = []) : ∃ o, t.promised = s.promised ++ o := by
    obtain ⟨o, ho⟩ := (microStep_pollFrame h).out
    exact ⟨o ++ symbols (promisedBytes t.todo), by simp [State.promised, hto, hnone, ho, symbols]⟩
  cases m with
  | startFrame b => cases h; exact ⟨[], by simp [State.promised, hto, promisedBytes, symbols]⟩
  | push b => cases h; exact ⟨[], by simp [State.promised, hto, promisedBytes, symbols]⟩
  | _ => exact of_none rfl

/-- Only the test of `ovf` writes the flag in the poll context (R59). -/
theorem microStep_ovf {m : Micro} {s t : State} (hm : m ≠ .testAndClear) (h : microStep m s = .next t) :
    t.ovf = s.ovf := by
  cases hp : m.pushes with
  | false =>
    obtain ⟨ms, tl, d, rfl⟩ := microStep_eq_of_not_pushes hp hm h
    rfl
  | true =>
    cases m with
    | startFrame b => cases h; rfl
    | push b => cases h; rfl
    | pushStart b => cases h; rfl
    | pushPayload b =>
      cases h
      unfold microPushPayload
      split <;> rfl
    | pushSide => cases h; rfl
    | pushCheck => cases h; rfl
    | pushIdle => cases h; rfl
    | _ => cases hp

/-- Since `s` the flag has stayed set, or the Soft-Overflow report has been promised. -/
structure Reported (s t : State) : Prop where
  out    : ∃ o, t.out = s.out ++ o
  report : t.ovf = true ∨ ∃ before after, t.promised = s.out ++ before ++ symbols softFrame ++ after

theorem Reported.ticked {s t : State} (h : Reported s t) : Reported s t.ticked := by
  obtain ⟨es, hes⟩ := t.ticked_eq
  rw [hes]
  exact ⟨h.out, h.report⟩

theorem microStep_reported {m : Micro} {rest : List Micro} {s t u : State} (hto : t.todo = m :: rest)
    (ht : Reported s t) (h : microStep m { t with todo := rest } = .next u) : Reported s u := by
  obtain ⟨⟨o, ho⟩, hreport⟩ := ht
  obtain ⟨p, hp⟩ := (microStep_pollFrame h).out
  replace hp : u.out = t.out ++ p := hp
  refine ⟨⟨o ++ p, by rw [hp, ho, List.append_assoc]⟩, ?_⟩
  rcases hreport with hovf | ⟨before, after, hpromised⟩
  · by_cases htest : m = .testAndClear
    · subst htest
      cases h
      obtain ⟨-, e⟩ | ⟨hclear, -⟩ := microTestAndClear_cases { t with todo := rest }
      · rw [e]
        refine .inr ⟨o, symbols (promisedBytes rest), ?_⟩
        simp [State.promised, ho, emitFixed, softFrame, mgmtFrame, promisedBytes, symbols]
      · exact absurd (hovf.symm.trans hclear) (by decide)
    · exact .inl ((microStep_ovf htest h).trans hovf)
  · obtain ⟨q, hq⟩ := microStep_promised hto h
    exact .inr ⟨before, after ++ q, by rw [hq, hpromised]; simp⟩

theorem execPoll_reported {s t : State} (hovf : s.ovf = true) (h : execPoll s = .next t) : Reported s t := by
  unfold execPoll at h
  split at h
  · cases h
  · exact run_induction (P := Reported s) (s := { s with todo := [.readHead] })
      (fun _ _ _ _ hu _ hto hm => (microStep_reported hto hu hm).ticked) ⟨⟨[], by simp⟩, .inl hovf⟩ h

/-- An operation of the poll context other than POLL and RESET is an originating one (R126, R145). -/
theorem isOriginating_of_not_isReceive {i : Instr} (hrx : isReceive i = false) (hreset : i ≠ .reset)
    (hpoll : i ≠ .poll) : isOriginating i = true := by
  cases i with
  | start | send | endFrame | tick | sync => rfl
  | rx | rxOvr | rxFe | rxFeOvr => cases hrx
  | poll => exact absurd rfl hpoll
  | reset => exact absurd rfl hreset

theorem exec_ovf {i : Instr} {s t : State} (hovf : s.ovf = true) (h : exec i s = .next t) (hreset : i ≠ .reset)
    (hpoll : i ≠ .poll) : t.ovf = true := by
  cases hrx : isReceive i with
  | true =>
    obtain ⟨b, fe, ovr, rfl⟩ := exists_rxInstr_of_isReceive hrx
    rw [exec_rxInstr] at h
    cases h
    exact rxByte_ovf hovf b fe ovr
  | false =>
    obtain ⟨-, hsame⟩ := exec_originating_frame (isOriginating_of_not_isReceive hrx hreset hpoll) h
    exact hsame.trans hovf

/-- Settles O48: when a POLL that cleared the flag has completed, what it promised has been pushed. -/
theorem pendingOverflowIsReported : Obligations.PendingOverflowIsReported := by
  refine fun i s t hovf h hreset => ⟨exec_ovf hovf h hreset, ?_⟩
  rintro rfl
  obtain ⟨-, hset | ⟨before, after, hpromised⟩⟩ := execPoll_reported hovf h
  · exact .inl hset
  · by_cases hdone : t.todo = []
    · refine .inr (.inr ⟨before, after, ?_⟩)
      simpa [State.promised, hdone, promisedBytes, softFrame, mgmtFrame, symbols] using hpromised
    · exact .inr (.inl hdone)

end Sys2Proof.Machine

/-! SUPPORT. The cells a receive step writes (R70, R267): each row of the receive table stores to the cells that
`rxStores` names and to no other, and every one of them lies outside the closed region. -/

namespace Sys2Proof.Machine

/-! ## What a row writes -/

/-- From `s` to `t` no cell has been written but those of `l`, in the same ring. -/
structure StoresOnly (l : List Nat) (s t : State) : Prop where
  cfg  : t.cfg = s.cfg
  read : ∀ a, a ∉ l.map (· % s.cfg.rbSize) → t.buf.read a = s.buf.read a

theorem StoresOnly.of_buf_eq {s t : State} (hcfg : t.cfg = s.cfg) (hbuf : t.buf = s.buf) : StoresOnly [] s t :=
  ⟨hcfg, fun _ _ => by rw [hbuf]⟩

theorem StoresOnly.of_write {s t : State} {i : Nat} {b : Byte} (hcfg : t.cfg = s.cfg)
    (hbuf : t.buf = s.buf.write (i % s.cfg.rbSize) b) : StoresOnly [i] s t :=
  ⟨hcfg, fun _ ha => by rw [hbuf, Memory.read_write_other b (by simpa using ha)]⟩

theorem StoresOnly.trans {l k : List Nat} {s t u : State} (h : StoresOnly l s t) (h' : StoresOnly k t u) :
    StoresOnly (l ++ k) s u := by
  refine ⟨h'.cfg.trans h.cfg, fun a ha => ?_⟩
  rw [List.map_append, List.mem_append, not_or] at ha
  exact (h'.read a (by rw [h.cfg]; exact ha.2)).trans (h.read a ha.1)

/-- Abandoning the open frame writes no cell (R161). -/
theorem storesOnly_abandon {l : List Nat} {s t : State} (h : StoresOnly l (abandon s) t) : StoresOnly l s t :=
  ⟨h.cfg, h.read⟩

theorem storesOnly_inject (code : Byte) (s : State) : StoresOnly (injectStores s) s (inject code s) := by
  unfold inject injectStores
  split
  · exact .of_write rfl rfl
  · exact .of_buf_eq rfl rfl

theorem storesOnly_placeStart (b : Byte) (s : State) : StoresOnly [s.head] s (placeStart b s) := by
  unfold placeStart
  split <;> exact .of_write rfl rfl

theorem storesOnly_admitStart (b : Byte) (s : State) : StoresOnly (admitStores s) s (admitStart b s) := by
  unfold admitStart admitStores
  split
  · exact .of_buf_eq rfl rfl
  · exact storesOnly_placeStart b s

theorem storesOnly_startNoRoom (b : Byte) (oldHead : Nat) (s : State) :
    StoresOnly (noRoomStores b oldHead s) s (startNoRoom b oldHead s) := by
  have hcode : StoresOnly [s.tail] s (replaceOnly b s) := .of_write rfl rfl
  unfold startNoRoom noRoomStores
  split
  · split
    · exact hcode.trans (.of_write rfl rfl)
    · exact hcode
  · exact .of_buf_eq rfl rfl

/-- A receive step writes the cells that `rxStores` names, and no other. -/
theorem storesOnly_rxByte (b : Byte) (fe ovr : Bool) (s : State) :
    StoresOnly (rxStores b fe ovr s) s (rxByte b fe ovr s) := by
  have hinject (code : Byte) : StoresOnly (injectStores (abandon s)) s (inject code (abandon s)) :=
    storesOnly_abandon (storesOnly_inject code (abandon s))
  unfold rxByte rxStores
  split
  · exact hinject rbMal
  · split
    · unfold overrun
      split
      · exact (hinject rbHovf).trans (storesOnly_admitStart b _)
      · simpa using hinject rbHovf
    · cases isStart b <;> cases s.mode
      case false.opened =>
        dsimp only
        unfold bodyWhileOpen
        split
        · exact .of_write rfl rfl
        · split
          · exact .of_write rfl rfl
          · exact .of_buf_eq rfl rfl
      case false.discard => exact .of_buf_eq rfl rfl
      case true.discard => exact storesOnly_admitStart b s
      case true.opened =>
        have hclose : StoresOnly [] s (closeOpen s) := .of_buf_eq rfl rfl
        dsimp only
        unfold startWhileOpen
        split
        · exact hclose.trans (storesOnly_placeStart b _)
        · exact hclose.trans (storesOnly_startNoRoom b s.head _)

/-! ## How many cells -/

theorem length_injectStores_le (s : State) : (injectStores s).length ≤ 1 := by
  unfold injectStores
  split <;> simp

theorem length_admitStores_le (s : State) : (admitStores s).length ≤ 1 := by
  unfold admitStores
  split <;> simp

theorem length_noRoomStores_le (b : Byte) (oldHead : Nat) (s : State) : (noRoomStores b oldHead s).length ≤ 2 := by
  unfold noRoomStores
  split
  · split <;> simp
  · simp

/-- A receive step writes at most two cells (R267). -/
theorem length_rxStores_le (b : Byte) (fe ovr : Bool) (s : State) : (rxStores b fe ovr s).length ≤ 2 := by
  have hcode := length_injectStores_le (abandon s)
  unfold rxStores
  split
  · omega
  · split
    · have hadmit := length_admitStores_le (inject rbHovf (abandon s))
      rw [List.length_append]
      split
      · omega
      · simpa using hcode.trans (Nat.le_succ 1)
    · split
      · split
        · simp
        · split <;> simp
      · simp
      · exact (length_admitStores_le s).trans (Nat.le_succ 1)
      · split
        · simp
        · exact length_noRoomStores_le b s.head _

/-! ## Where they lie -/

/-- The cell `a` is none of the closed region's (R57). -/
abbrev OutsideClosed (s : State) (a : Nat) : Prop :=
  ∀ k, k < s.span s.tail s.head → a % s.cfg.rbSize ≠ (s.tail + k) % s.cfg.rbSize

/-- The cell `k` further on stands `k` cells away, short of a whole round. -/
theorem State.span_add_mod {s : State} {a k : Nat} (ha : a < s.cfg.rbSize) (hk : k < s.cfg.rbSize) :
    s.span a ((a + k) % s.cfg.rbSize) = k := by
  unfold State.span
  rw [Nat.mod_eq_of_lt ha, Nat.mod_add_mod, show a + k + (s.cfg.rbSize - a) = k + s.cfg.rbSize by omega,
    Nat.add_mod_right, Nat.mod_eq_of_lt hk]

/-- A cell that stands no nearer to `tail` than `head` does is not closed. -/
theorem outsideClosed_of_span_le {s : State} {a : Nat} (htail : s.tail < s.cfg.rbSize) (ha : a < s.cfg.rbSize)
    (h : s.span s.tail s.head ≤ s.span s.tail a) : OutsideClosed s a := by
  intro k hk e
  have hdist := State.span_add_mod htail (hk.trans (State.span_lt htail))
  rw [← e, Nat.mod_eq_of_lt ha] at hdist
  omega

/-- Where nothing is closed, no cell is. -/
theorem outsideClosed_of_empty {s : State} (hs : IndexOk s) (hempty : s.head = s.tail) (a : Nat) :
    OutsideClosed s a := by
  intro k hk
  rw [hempty, State.span_self hs.tail_lt] at hk
  exact absurd hk (Nat.not_lt_zero k)

/-- Wherever the receive step has taken `head`, it stands outside the region that was closed before. -/
theorem KeepsBuffer.outsideClosed_head {s t : State} (h : KeepsBuffer s t) (hs : BufferOk s) :
    OutsideClosed s t.head := by
  obtain ⟨ht, hgrows⟩ := h hs
  exact outsideClosed_of_span_le hs.index.tail_lt (hgrows.cfg ▸ ht.index.head_lt) hgrows.span

theorem BufferOk.outsideClosed_wr {s : State} (hs : BufferOk s) : OutsideClosed s s.wr := by
  obtain ⟨-, hindex, -, -, -, horder, -⟩ := hs
  exact outsideClosed_of_span_le hindex.tail_lt hindex.wr_lt horder

theorem eq_head_of_mem_injectStores {s : State} {a : Nat} (h : a ∈ injectStores s) : a = s.head := by
  unfold injectStores at h
  split at h <;> simp_all

theorem eq_head_of_mem_admitStores {s : State} {a : Nat} (h : a ∈ admitStores s) : a = s.head := by
  unfold admitStores at h
  split at h <;> simp_all

/-- A start byte without room writes only where the frame just closed was the only closed unit (R173). -/
theorem eq_tail_of_mem_noRoomStores {b : Byte} {oldHead a : Nat} {s : State} (h : a ∈ noRoomStores b oldHead s) :
    oldHead = s.tail := by
  unfold noRoomStores at h
  split at h
  · assumption
  · cases h

/-- A receive step writes no closed cell (R70, R174). -/
theorem outsideClosed_of_mem_rxStores {b : Byte} {fe ovr : Bool} {s : State} {a : Nat} (hs : BufferOk s)
    (ha : a ∈ rxStores b fe ovr s) : OutsideClosed s a := by
  have hhead : OutsideClosed s s.head := (KeepsBuffer.refl s).outsideClosed_head hs
  have hcode (hmem : a ∈ injectStores (abandon s)) : OutsideClosed s a := by
    rw [eq_head_of_mem_injectStores hmem]; exact hhead
  unfold rxStores at ha
  split at ha
  · exact hcode ha
  · split at ha
    · rcases List.mem_append.mp ha with ha | ha
      · exact hcode ha
      · split at ha
        · rw [eq_head_of_mem_admitStores ha]
          exact ((abandon_keepsBuffer s).trans (inject_keepsBuffer rfl rfl)).outsideClosed_head hs
        · cases ha
    · split at ha
      · split at ha
        · rw [List.mem_singleton.mp ha]; exact hs.outsideClosed_wr
        · split at ha
          · rw [List.mem_singleton.mp ha]; exact hhead
          · cases ha
      · cases ha
      · rw [eq_head_of_mem_admitStores ha]; exact hhead
      · split at ha
        · rw [List.mem_singleton.mp ha]; exact hs.outsideClosed_wr
        · exact outsideClosed_of_empty hs.index (eq_tail_of_mem_noRoomStores ha) a

/-- Settles O30: what the step writes, how many cells, and where they lie. -/
theorem receiveStepStoresOutsideClosedRegion : Obligations.ReceiveStepStoresOutsideClosedRegion := by
  intro b fe ovr s t h
  rw [exec_rxInstr] at h
  cases h
  exact ⟨(storesOnly_rxByte b fe ovr s).read, length_rxStores_le b fe ovr s,
    fun hs _ ha => outsideClosed_of_mem_rxStores hs ha⟩

end Sys2Proof.Machine

/-! SUPPORT. A step that does not go on with the operation in progress, one equation for each event of the schedule
(R60, R61, R73), and when the operation in progress does not go on. -/

namespace Sys2Proof.Machine

/-! ## When an operation does not go on -/

theorem State.running_eq_false_of_todo {s : State} (h : s.todo = []) : s.running = false := by
  simp [State.running, h]

theorem State.running_eq_false_of_held {s : State} (h : s.held = true) : s.running = false := by
  simp [State.running, h]

theorem State.running_eq_false_of_due {s : State} (h : s.due = true) : s.running = false := by
  simp [State.running, h]

/-- A Push holds while the queue is full (R11, R73). -/
theorem State.held_of_full {s : State} {m : Micro} {ms : List Micro} {k : Nat} (ht : s.todo = m :: ms)
    (hm : m.pushes = true) (hk : s.cfg.outqSize = some k) (hfull : s.queued = k) : s.held = true := by
  simp [State.held, State.roomFor, ht, hm, hk, hfull]

/-! ## What happens then -/

section
variable {s : State} {es : List Event}

theorem step_of_agenda_nil (hr : s.running = false) (ha : s.agenda = []) : step s = .next s := by
  simp [step, hr, ha]

theorem step_of_arrive {n : Nat} {b : Byte} {fe ovr : Bool} (hr : s.running = false)
    (ha : s.agenda = .arrive n b fe ovr :: es) : step s = .next (rxByte b fe ovr { s with agenda := es }) := by
  simp [step, hr, ha, interrupt]

theorem step_of_drain {n : Nat} (hr : s.running = false) (ha : s.agenda = .drain n :: es) :
    step s = .next { s with agenda := es, queued := s.queued - 1 } := by
  simp [step, hr, ha, State.drained]

/-- Between operations the command is taken. -/
theorem step_of_issue {c : Command} {i : Instr} (ht : s.todo = []) (ha : s.agenda = .issue c :: es)
    (hd : decode c = .ok i) : step s = exec i { s with agenda := es } := by
  simp [step, State.running_eq_false_of_todo ht, ha, ht, fetch, hd]

/-- Inside an operation the command waits. -/
theorem step_of_issue_waiting {c : Command} (hr : s.running = false) (ht : s.todo ≠ [])
    (ha : s.agenda = .issue c :: es) : step s = .next s := by
  simp [step, hr, ha, ht]

end

/-- Settles O5: between operations nothing stands before the command. -/
theorem stepRunsTheDecodedCommand : Obligations.StepRunsTheDecodedCommand :=
  fun _ _ _ _ ht ha hd => step_of_issue ht ha hd

/-- Settles O53: in each of the three places the operation in progress does not go on. -/
theorem drainerStepFreesOneSlot : Obligations.DrainerStepFreesOneSlot := by
  intro s n es ha hplace
  have hr : s.running = false := by
    rcases hplace with rfl | ht | hheld
    · exact State.running_eq_false_of_due (by simp [State.due, ha])
    · exact State.running_eq_false_of_todo ht
    · exact State.running_eq_false_of_held hheld
  exact step_of_drain hr ha

/-- Settles O52: the Push holds, so each step is the next event's, or nothing. -/
theorem pushHoldsWhileQueueFull : Obligations.PushHoldsWhileQueueFull := by
  intro s m ms k ht hm hk hpos hfull
  have hr : s.running = false := State.running_eq_false_of_held (State.held_of_full ht hm hk hfull)
  refine ⟨step_of_agenda_nil hr, fun c es ha => step_of_issue_waiting hr (by simp [ht]) ha,
    fun n b fe ovr es ha => ?_, fun n es ha => ?_⟩
  · have hsame := rxByte_samePollSide b fe ovr { s with agenda := es }
    exact ⟨_, step_of_arrive hr ha, exec_rxInstr b fe ovr _, hsame.todo, hsame.out⟩
  · have hslot : k - 1 + 1 ≤ k := by omega
    exact ⟨_, step_of_drain hr ha, by rw [hfull], by simpa [State.roomFor, hk, hfull] using hslot⟩

end Sys2Proof.Machine

/-! SUPPORT. The fields of a command word (R94, R95): a word under the mask of a field is that field, shifted to its
place, and an operand of the low bits can be put in and taken out. -/

namespace Sys2Proof

/-- The mask of the `n` bits from bit `k` on. -/
def fieldMask (k n : Nat) : CmdWord := (BitVec.allOnes n).zeroExtend 16 <<< k

/-- A word under the mask of a field holds that field and nothing else. -/
theorem and_fieldMask (w : CmdWord) (k n : Nat) :
    w &&& fieldMask k n = (w.extractLsb' k n).zeroExtend 16 <<< k := by
  ext i hi
  by_cases hk : i < k
  · simp [fieldMask, hk]
  · have hik : k + (i - k) = i := by omega
    simp [fieldMask, hk, hik, hi, BitVec.getLsbD_eq_getElem, Bool.and_comm]

/-- A word's low field put back beside its other bits gives the word. -/
theorem and_not_fieldMask_or_field (w : CmdWord) (n : Nat) :
    w &&& ~~~fieldMask 0 n ||| (w.extractLsb' 0 n).zeroExtend 16 = w := by
  have hfield := and_fieldMask w 0 n
  rw [BitVec.shiftLeft_zero] at hfield
  rw [← hfield]
  ext i hi
  simp [← Bool.and_or_distrib_left]

theorem zeroExtend_and_not_fieldMask {n : Nat} (x : BitVec n) : x.zeroExtend 16 &&& ~~~fieldMask 0 n = 0 := by
  ext i hi
  by_cases hn : i < n
  · simp [fieldMask, hn]
  · simp [BitVec.getLsbD_of_ge x i (by omega)]

theorem extractLsb'_zeroExtend {n : Nat} (x : BitVec n) (hn : n ≤ 16) :
    (x.zeroExtend 16).extractLsb' 0 n = x := by
  ext i hi
  simp [show i < 16 by omega, hi]

/-- The tx_idle flag as the one-bit field it is (R95). -/
theorem ofBool_fieldT (w : CmdWord) : BitVec.ofBool (fieldT w) = w.extractLsb' 0 1 := by
  ext i hi
  obtain rfl : i = 0 := by omega
  simp [fieldT, BitVec.getLsbD_eq_getElem]

end Sys2Proof

/-! SUPPORT. The decoder and the encoder row by row (R94 to R96): a row's operand of `n` bits is the low `n` bits of
the word, and its mask is all the others. -/

namespace Sys2Proof

/-! ## The decoder by the row the word lies in -/

/-- Two rows that hold the same word are one row. -/
theorem eq_of_holds {r q : OpRow} {w : CmdWord} (hr : r ∈ opRows) (hq : q ∈ opRows) (hrw : r.holds w = true)
    (hqw : q.holds w = true) : r = q := by
  have hpair : opRows.Pairwise fun r q => ¬(r.holds w = true ∧ q.holds w = true) :=
    opRows_pairwise_disjoint.imp fun hdis ⟨h, k⟩ => by
      rw [OpRow.not_holds_of_disjoint hdis h] at k
      cases k
  have hsymm : Std.Symm fun r q : OpRow => ¬(r.holds w = true ∧ q.holds w = true) := ⟨fun _ _ h k => h k.symm⟩
  by_contra hne
  exact hpair.forall hr hq hne ⟨hrw, hqw⟩

/-- What the decoder answers on a word of the row. -/
theorem decode_of_holds {r : OpRow} {c : Command} (hr : r ∈ opRows) (hrc : r.holds c.word = true) :
    decode c = .ok (r.build c.word c.now) := by
  unfold decode
  split
  · rename_i q hq
    have hqc : q.holds c.word = true := by simpa using List.find?_some hq
    rw [eq_of_holds hr (List.mem_of_find?_eq_some hq) hrc hqc]
  · rename_i hnone
    exact absurd hrc (List.find?_eq_none.mp hnone r hr)

/-! ## Rows with an operand, and rows of one word -/

section
variable {mask pattern : CmdWord} {build : CmdWord → Nat → Instr}

theorem eq_pattern_of_holds {w : CmdWord} (hmask : mask = .allOnes 16)
    (hw : OpRow.holds ⟨mask, pattern, build⟩ w = true) : pattern = w := by
  rw [OpRow.holds, hmask, BitVec.and_allOnes, beq_iff_eq] at hw
  exact hw.symm

variable {n : Nat} {mk : BitVec n → Instr} (hmask : mask = ~~~fieldMask 0 n)
include hmask

/-- A word of the row is the row's pattern with the word's own operand beside it. -/
theorem pattern_or_operand {w : CmdWord} (hw : OpRow.holds ⟨mask, pattern, build⟩ w = true) :
    pattern ||| (w.extractLsb' 0 n).zeroExtend 16 = w := by
  have hbits : w &&& ~~~fieldMask 0 n = pattern := by simpa [OpRow.holds, hmask] using hw
  rw [← hbits, and_not_fieldMask_or_field]

/-- The row's pattern with an operand beside it decodes to the row's operation on that operand. -/
theorem decode_pattern_or_operand {k : Nat}
    (hrow : opRows[k]? = some ⟨mask, pattern, fun w _ => mk (w.extractLsb' 0 n)⟩) (hn : n ≤ 16)
    (hlow : pattern.extractLsb' 0 n = 0#n) (x : BitVec n) :
    decode ⟨pattern ||| x.zeroExtend 16, 0⟩ = .ok (mk x) := by
  have hpattern : pattern &&& ~~~fieldMask 0 n = pattern := by
    simpa [hlow] using and_not_fieldMask_or_field pattern n
  have hoperand : (pattern ||| x.zeroExtend 16).extractLsb' 0 n = x := by
    rw [BitVec.extractLsb'_or, hlow, extractLsb'_zeroExtend x hn, BitVec.zero_or]
  have hholds : OpRow.holds ⟨mask, pattern, fun w _ => mk (w.extractLsb' 0 n)⟩
      (pattern ||| x.zeroExtend 16) = true := by
    rw [OpRow.holds, hmask, BitVec.and_or_distrib_right, hpattern, zeroExtend_and_not_fieldMask]
    simp
  rw [decode_of_holds (c := ⟨_, 0⟩) (List.mem_of_getElem? hrow) hholds]
  exact congrArg (fun y => Except.ok (mk y)) hoperand

end

/-- Settles O2: each operation's word lies in its row, and the row takes out the operand that was put in. -/
theorem decodeInvertsEncode : Obligations.DecodeInvertsEncode := by
  intro i
  cases i with
  | start p => exact decode_pattern_or_operand (mk := .start) (k := 0) (by decide) rfl (by decide) rfl p
  | send b => exact decode_pattern_or_operand (mk := .send) (k := 1) (by decide) rfl (by decide) rfl b
  | endFrame => exact decode_of_holds (List.mem_of_getElem? (i := 2) rfl) (by decide)
  | rx b => exact decode_pattern_or_operand (mk := .rx) (k := 3) (by decide) rfl (by decide) rfl b
  | rxOvr b => exact decode_pattern_or_operand (mk := .rxOvr) (k := 4) (by decide) rfl (by decide) rfl b
  | rxFe b => exact decode_pattern_or_operand (mk := .rxFe) (k := 5) (by decide) rfl (by decide) rfl b
  | rxFeOvr b => exact decode_pattern_or_operand (mk := .rxFeOvr) (k := 6) (by decide) rfl (by decide) rfl b
  | poll => exact decode_of_holds (List.mem_of_getElem? (i := 7) rfl) (by decide)
  | tick t => cases t <;> exact decode_of_holds (List.mem_of_getElem? (i := 8) rfl) (by decide)
  | sync now =>
    have hword : OpRow.holds ⟨0xFFFF, 0x7000, fun _ now => .sync now⟩ 0x7000 = true := by decide
    exact decode_of_holds (c := ⟨0x7000, now⟩) (List.mem_of_getElem? (i := 9) rfl) hword
  | reset => exact decode_of_holds (List.mem_of_getElem? (i := 10) rfl) (by decide)

/-- The encoding of what a row builds from a word of the row is the word. -/
theorem encode_build_word {r : OpRow} {w : CmdWord} (hr : r ∈ opRows) (hw : r.holds w = true) (now : Nat) :
    (encode (r.build w now)).word = w := by
  simp only [opRows, List.mem_cons, List.not_mem_nil, or_false] at hr
  rcases hr with rfl | rfl | rfl | rfl | rfl | rfl | rfl | rfl | rfl | rfl | rfl
  · exact pattern_or_operand (n := 4) (by decide) hw
  · exact pattern_or_operand (n := 8) (by decide) hw
  · exact eq_pattern_of_holds (by decide) hw
  · exact pattern_or_operand (n := 8) (by decide) hw
  · exact pattern_or_operand (n := 8) (by decide) hw
  · exact pattern_or_operand (n := 8) (by decide) hw
  · exact pattern_or_operand (n := 8) (by decide) hw
  · exact eq_pattern_of_holds (by decide) hw
  · rw [encode, ofBool_fieldT]
    exact pattern_or_operand (n := 1) (by decide) hw
  · exact eq_pattern_of_holds (by decide) hw
  · exact eq_pattern_of_holds (by decide) hw

/-- The one row with SYNC takes its operand from beside the word. -/
theorem now_of_build_eq_sync {r : OpRow} {w : CmdWord} {now now' : Nat} (hr : r ∈ opRows)
    (h : r.build w now = .sync now') : now' = now := by
  simp only [opRows, List.mem_cons, List.not_mem_nil, or_false] at hr
  rcases hr with rfl | rfl | rfl | rfl | rfl | rfl | rfl | rfl | rfl | rfl | rfl <;> cases h
  rfl

/-- Settles O3: the word lies in the row that built the operation. -/
theorem encodeInvertsDecode : Obligations.EncodeInvertsDecode := by
  intro c i h
  obtain ⟨r, hr, hholds, rfl⟩ := decode_eq_ok h
  exact ⟨encode_build_word hr hholds c.now, fun now hsync => now_of_build_eq_sync hr hsync⟩

/-- Settles O1: each word is, written out, the encoding of its operation. -/
theorem decodeSampleWords : Obligations.DecodeSampleWords :=
  ⟨decodeInvertsEncode (.start 3), decodeInvertsEncode (.send 0xC2), decodeInvertsEncode .endFrame,
    decodeInvertsEncode (.rx 0xA5), decodeInvertsEncode (.rxOvr 0x83), decodeInvertsEncode (.rxFe 0x00),
    decodeInvertsEncode (.rxFeOvr 0xFF), decodeInvertsEncode .poll, decodeInvertsEncode (.tick true),
    decodeInvertsEncode (.sync 0x1FFF), decodeInvertsEncode .reset⟩

end Sys2Proof

/-! SUPPORT. Which command words lie in a row (R94, R96): the op field names an operation, and the bits that R94 keeps
at 0 for it are 0. -/

namespace Sys2Proof

/-- The op field `cw[15:12]` (R94). -/
def opBits (w : CmdWord) : BitVec 4 := w.extractLsb' 12 4

/-- The bits that R94's table keeps at 0 for an op field. -/
def mustBeZero (op : BitVec 4) : CmdWord :=
  if op = 1 then 0x0FF0 else if op = 2 then 0x0F00 else if op = 4 then 0x0C00 else if op = 6 then 0x0FFE else 0x0FFF

/-- The op field names an operation, and its must-be-0 bits are 0. -/
def Assigned (w : CmdWord) : Prop := opBits w ≠ 0 ∧ (opBits w).toNat < 9 ∧ w &&& mustBeZero (opBits w) = 0

/-- Every row fixes the op field, to a number of R94's table, and the must-be-0 bits of that number, to 0. -/
theorem mask_of_mem_opRows (r : OpRow) (hr : r ∈ opRows) :
    r.mask.extractLsb' 12 4 = .allOnes 4 ∧
      r.mask &&& mustBeZero (opBits r.pattern) = mustBeZero (opBits r.pattern) ∧ Assigned r.pattern := by
  revert r
  unfold Assigned
  decide

/-- Every op field of R94's table has a row that fixes just that, the must-be-0 bits, and `cw[9:8]`: for the RX forms,
op field 4, these two are the flags, and for every other operation they must be 0. -/
theorem exists_row : ∀ (op : BitVec 4) (flags : BitVec 2), op ≠ 0 → op.toNat < 9 →
    flags.zeroExtend 16 <<< 8 &&& mustBeZero op = 0 →
    ∃ r ∈ opRows, r.mask = fieldMask 12 4 ||| fieldMask 8 2 ||| mustBeZero op ∧
      r.pattern = op.zeroExtend 16 <<< 12 ||| flags.zeroExtend 16 <<< 8 := by
  decide

theorem assigned_of_holds {r : OpRow} {w : CmdWord} (hr : r ∈ opRows) (hw : r.holds w = true) : Assigned w := by
  obtain ⟨hop, hzeros, hassigned⟩ := mask_of_mem_opRows r hr
  have hbits : w &&& r.mask = r.pattern := by simpa [OpRow.holds] using hw
  have hopw : opBits r.pattern = opBits w := by
    rw [← hbits, opBits, BitVec.extractLsb'_and, hop, BitVec.and_allOnes, opBits]
  rw [hopw] at hzeros
  rw [Assigned, hopw] at hassigned
  obtain ⟨hne, hlt, hpattern⟩ := hassigned
  refine ⟨hne, hlt, ?_⟩
  rw [← hzeros, ← BitVec.and_assoc, hbits, hpattern]

theorem exists_holds_of_assigned {w : CmdWord} (h : Assigned w) : ∃ r ∈ opRows, r.holds w = true := by
  obtain ⟨hne, hlt, hzeros⟩ := h
  have hflags : (w.extractLsb' 8 2).zeroExtend 16 <<< 8 &&& mustBeZero (opBits w) = 0 := by
    rw [← and_fieldMask, BitVec.and_assoc, BitVec.and_comm (fieldMask 8 2), ← BitVec.and_assoc, hzeros]
    exact BitVec.zero_and
  obtain ⟨r, hr, hmask, hpattern⟩ := exists_row (opBits w) (w.extractLsb' 8 2) hne hlt hflags
  refine ⟨r, hr, ?_⟩
  rw [OpRow.holds, hmask, hpattern, BitVec.and_or_distrib_left, BitVec.and_or_distrib_left, hzeros, and_fieldMask,
    and_fieldMask]
  simp [opBits]

/-- A command is decoded exactly when its word is assigned. -/
theorem exists_decode_iff (c : Command) : (∃ i, decode c = .ok i) ↔ Assigned c.word := by
  constructor
  · rintro ⟨i, h⟩
    obtain ⟨r, hr, hholds, -⟩ := decode_eq_ok h
    exact assigned_of_holds hr hholds
  · intro h
    obtain ⟨r, hr, hholds⟩ := exists_holds_of_assigned h
    exact ⟨_, decode_of_holds hr hholds⟩

end Sys2Proof

/-! SUPPORT. A command that decodes is never refused (R235), whatever its operation does. -/

namespace Sys2Proof.Machine

theorem microStep_ne_refused (m : Micro) (s : State) (x : Refusal) : microStep m s ≠ .refused x := by
  cases m with
  | readUnit h =>
    simp only [microStep, microReadUnit, dispatchUnit]
    repeat' split
    all_goals nofun
  | _ => nofun

theorem run_ne_refused (n : Nat) (s : State) (x : Refusal) : run n s ≠ .refused x := by
  induction n generalizing s with
  | zero => nofun
  | succ n ih =>
    unfold run
    split
    · nofun
    · split
      · split
        · exact ih _
        · nofun
        · rename_i hm
          exact absurd hm (microStep_ne_refused _ _ _)
      · nofun

theorem exec_ne_refused (i : Instr) (s : State) (x : Refusal) : exec i s ≠ .refused x := by
  have hbegin (ms : List Micro) (u : State) : begin ms u ≠ .refused x := run_ne_refused _ _ x
  cases i with
  | start p => exact hbegin [.pushStart (startByte localAddr p)] s
  | send b =>
    simp only [exec, execSend]
    split
    · nofun
    · split
      · nofun
      · exact hbegin _ s
  | endFrame =>
    simp only [exec, execEndFrame]
    split
    · nofun
    · split <;> exact hbegin _ s
  | poll =>
    simp only [exec, execPoll]
    split
    · nofun
    · exact hbegin _ s
  | tick t =>
    simp only [exec, execTick]
    split
    · exact hbegin _ s.idleTicked
    · nofun
  | sync now =>
    simp only [exec, execSync]
    repeat' split
    all_goals nofun
  | rx b | rxOvr b | rxFe b | rxFeOvr b | reset => nofun

theorem step_of_issue_error {s : State} {es : List Event} {c : Command} {e : DecodeError} (ht : s.todo = [])
    (ha : s.agenda = .issue c :: es) (hd : decode c = .error e) : step s = .refused .reservedCommand := by
  simp [step, State.running_eq_false_of_todo ht, ha, ht, fetch, hd]

/-- Between operations, a command is refused exactly when it does not decode. -/
theorem step_refused_iff {s : State} {es : List Event} {c : Command} (ht : s.todo = [])
    (ha : s.agenda = .issue c :: es) : step s = .refused .reservedCommand ↔ ¬∃ i, decode c = .ok i := by
  cases hd : decode c with
  | error e => simp [step_of_issue_error ht ha hd]
  | ok i => simp [step_of_issue ht ha hd, exec_ne_refused]

/-- Settles O4: what does not decode is what R94's table leaves unassigned. -/
theorem reservedCommandWordsAreRefused : Obligations.ReservedCommandWordsAreRefused := by
  intro s c es ht ha
  rw [step_refused_iff ht ha, exists_decode_iff]
  simp only [Assigned, not_and_or, not_not, not_lt]
  rfl

end Sys2Proof.Machine

/-! SUPPORT. The functions on whole wire frames (R80 to R87): the start byte's fields, the side-channel byte, one run's
body bytes, and the checksum. -/

namespace Sys2Proof.Machine

/-! ## Single bytes -/

section
variable (a : BitVec 3) (p : BitVec 4)

@[simp] theorem isStart_startByte : isStart (startByte a p) = true := by
  simp [isStart, startByte]

@[simp] theorem addr_startByte : addr (startByte a p) = a := by
  ext i hi
  interval_cases i <;> simp [addr, startByte, BitVec.getLsbD_eq_getElem]

@[simp] theorem proto_startByte : proto (startByte a p) = p := by
  ext i hi
  interval_cases i <;> simp [proto, startByte, BitVec.getLsbD_eq_getElem]

end

@[simp] theorem isStart_clip (b : Byte) : isStart (clip b) = false := by
  simp [isStart, clip]

/-! ## The side-channel byte -/

/-- A run's side-channel byte collects the top bits, also of a run that is too long for it (R84). -/
theorem getLsbD_sideByte (q : List Byte) {i : Nat} (hi : i < 8) :
    (sideByte q).getLsbD i = (q.getD i 0).getLsbD 7 := by
  induction q generalizing i with
  | nil => simp [sideByte]
  | cons b q ih =>
    cases i with
    | zero => simp [sideByte]
    | succ i =>
      have hbit : b.getLsbD (7 + (i + 1)) = false := BitVec.getLsbD_of_ge _ _ (by omega)
      have hlt : i < 8 := by omega
      simpa [sideByte, hi, hbit, hlt, BitVec.getLsbD_eq_getElem] using ih hlt

/-- Above the run length there is no bit (R84). -/
theorem getLsbD_sideByte_of_length_le {q : List Byte} {i : Nat} (h : q.length ≤ i) :
    (sideByte q).getLsbD i = false := by
  by_cases hi : i < 8
  · simp [getLsbD_sideByte q hi, h]
  · exact BitVec.getLsbD_of_ge _ _ (by omega)

/-- Settles O40: both halves bit by bit. -/
theorem sideChannelByteBits : Obligations.SideChannelByteBits := by
  intro q hq
  refine ⟨fun i hi => ?_, fun i => getLsbD_sideByte_of_length_le⟩
  rw [getLsbD_sideByte q (by omega), BitVec.getLsbD_eq_getElem]

/-- The side-channel byte is a body byte (R84). -/
theorem isStart_sideByte {q : List Byte} (h : q.length ≤ runLen) : isStart (sideByte q) = false := by
  rw [isStart, ← BitVec.getLsbD_eq_getElem]
  exact getLsbD_sideByte_of_length_le h

/-- A clipped byte with its top bit put back from the side-channel byte of its run (R87). -/
theorem clip_or_sideByte_cons (b : Byte) (q : List Byte) : clip b ||| sideByte (b :: q) <<< 7 = b := by
  ext i hi
  interval_cases i <;> simp [clip, sideByte]

theorem sideByte_cons_shiftRight (b : Byte) {q : List Byte} (h : q.length ≤ 7) :
    sideByte (b :: q) >>> 1 = sideByte q := by
  ext i hi
  have hbit : b.getLsbD (7 + (1 + i)) = false := BitVec.getLsbD_of_ge _ _ (by omega)
  by_cases hi7 : i = 7
  · subst hi7
    simpa [sideByte, hbit] using (getLsbD_sideByte_of_length_le h).symm
  · have hlt : 1 + i < 8 := by omega
    simp [sideByte, hbit, hlt, BitVec.getLsbD_eq_getElem]

/-- What a run carries is read back from its clipped bytes and its side-channel byte (R87). -/
theorem restoreRun_sideByte {q : List Byte} (h : q.length ≤ runLen) : restoreRun (sideByte q) (q.map clip) = q := by
  induction q with
  | nil => rfl
  | cons b q ih =>
    have hq : q.length ≤ runLen := (Nat.le_succ _).trans h
    rw [List.map_cons, restoreRun, clip_or_sideByte_cons, sideByte_cons_shiftRight b hq, ih hq]

/-! ## The body bytes of a run -/

/-- The side-channel bytes of a run: one, or none where the run is empty (R83). -/
def sideBytes (q : List Byte) : List Byte := (runBody q).drop q.length

@[simp] theorem sideBytes_nil : sideBytes [] = [] := rfl

theorem sideBytes_eq {q : List Byte} (h : q ≠ []) : sideBytes q = [sideByte q] := by
  cases q with
  | nil => exact absurd rfl h
  | cons b q => simp [sideBytes, runBody]

/-- A run is its clipped bytes, then its side-channel bytes (R83). -/
theorem runBody_eq (q : List Byte) : runBody q = q.map clip ++ sideBytes q := by
  cases q with
  | nil => rfl
  | cons b q => rw [sideBytes_eq (by simp)]; rfl

@[simp] theorem take_runBody (q : List Byte) : (runBody q).take q.length = q.map clip := by
  simp [runBody_eq]

@[simp] theorem drop_runBody (q : List Byte) : (runBody q).drop q.length = sideBytes q := rfl

theorem length_sideBytes_le (q : List Byte) : (sideBytes q).length ≤ 1 := by
  cases q with
  | nil => simp
  | cons b q => simp [sideBytes_eq]

theorem headD_sideBytes (q : List Byte) : (sideBytes q).headD 0 = sideByte q := by
  cases q with
  | nil => rfl
  | cons b q => simp [sideBytes_eq]

/-- Every byte of a run's body is a body byte (R80, R83). -/
theorem isStart_eq_false_of_mem_runBody {q : List Byte} (h : q.length ≤ runLen) {b : Byte} (hb : b ∈ runBody q) :
    isStart b = false := by
  rw [runBody_eq, List.mem_append] at hb
  rcases hb with hb | hb
  · obtain ⟨c, -, rfl⟩ := List.mem_map.mp hb
    exact isStart_clip c
  · cases q with
    | nil => cases hb
    | cons c q =>
      rw [sideBytes_eq (by simp), List.mem_singleton] at hb
      rw [hb]
      exact isStart_sideByte h

/-! ## The two runs of a payload -/

theorem firstRun_append_secondRun (payload : List Byte) : firstRun payload ++ secondRun payload = payload :=
  List.take_append_drop runLen payload

theorem length_firstRun (payload : List Byte) : (firstRun payload).length = min runLen payload.length :=
  List.length_take

theorem length_secondRun (payload : List Byte) : (secondRun payload).length = payload.length - runLen :=
  List.length_drop

theorem length_firstRun_le (payload : List Byte) : (firstRun payload).length ≤ runLen := by
  rw [length_firstRun]
  exact Nat.min_le_left _ _

/-- Only a full run has a second one behind it (R83). -/
theorem length_firstRun_of_secondRun_ne_nil {payload : List Byte} (hne : secondRun payload ≠ []) :
    (firstRun payload).length = runLen := by
  have hpos := List.length_pos_of_ne_nil hne
  rw [length_secondRun] at hpos
  rw [length_firstRun]
  omega

theorem length_secondRun_le {payload : List Byte} (h : payload.length ≤ payloadMax) :
    (secondRun payload).length ≤ runLen := by
  simp only [payloadMax] at h
  rw [length_secondRun, runLen]
  omega

/-- The body bytes before the checksum (R83). -/
def bodyBytes (payload : List Byte) : List Byte := runBody (firstRun payload) ++ runBody (secondRun payload)

theorem encodeFrame_eq (a : BitVec 3) (p : BitVec 4) (payload : List Byte) :
    encodeFrame a p payload =
      startByte a p :: (bodyBytes payload ++ [clip (checksumX (startByte a p) payload)]) := rfl

/-! ## The number of body bytes -/

theorem length_runBody (q : List Byte) : (runBody q).length = q.length + min 1 q.length := by
  cases q with
  | nil => rfl
  | cons b q => simp [runBody]

/-- A payload of at most two runs takes `B(n)` body bytes (R86). -/
theorem length_bodyBytes {payload : List Byte} (h : payload.length ≤ payloadMax) :
    (bodyBytes payload).length = bodyCount payload.length := by
  simp only [payloadMax] at h
  simp only [bodyBytes, List.length_append, length_runBody, length_firstRun, length_secondRun, bodyCount, runLen]
  omega

/-- Settles O41: the start byte, `B(n)` body bytes and the checksum. -/
theorem wireFrameLength : Obligations.WireFrameLength := by
  intro a p payload h
  have hlen : (encodeFrame a p payload).length = 2 + bodyCount payload.length := by
    rw [encodeFrame_eq, List.length_cons, List.length_append, length_bodyBytes h, List.length_singleton]
    omega
  simp only [bodyCount, runLen] at hlen
  omega

/-- More payload takes more body bytes. -/
theorem bodyCount_strictMono : StrictMono bodyCount := by
  intro m n h
  simp only [bodyCount, runLen]
  omega

/-- The number of body bytes tells the number of payload bytes (R87). -/
theorem find?_bodyCount {n : Nat} (h : n ≤ payloadMax) :
    (List.range (payloadMax + 1)).find? (fun m => bodyCount m == bodyCount n) = some n := by
  rw [List.find?_range_eq_some]
  refine ⟨beq_self_eq_true _, List.mem_range.mpr (Nat.lt_succ_of_le h), fun m hm => ?_⟩
  have hlt := bodyCount_strictMono hm
  simpa using hlt.ne

/-! ## The checksum -/

theorem xorAll_append (bs cs : List Byte) : xorAll (bs ++ cs) = xorAll bs ^^^ xorAll cs := by
  have hfold : cs.foldl (· ^^^ ·) (xorAll bs ^^^ 0#8) = xorAll bs ^^^ xorAll cs := List.foldl_assoc
  rw [BitVec.xor_zero] at hfold
  rw [← hfold, xorAll, List.foldl_append, ← xorAll]

theorem xorAll_sideBytes (q : List Byte) : xorAll (sideBytes q) = sideByte q := by
  cases q with
  | nil => rfl
  | cons b q => simp [sideBytes_eq, xorAll]

/-! ## Reading a frame back -/

/-- The first run stands at positions 0 on (R87). -/
theorem take_bodyBytes (payload : List Byte) :
    (bodyBytes payload).take (firstRun payload).length = (firstRun payload).map clip := by
  rw [bodyBytes, List.take_append_of_le_length (by simp [length_runBody]), take_runBody]

/-- The second run stands at positions 8 on, where there is one (R87). -/
theorem drop_bodyBytes (payload : List Byte) :
    (bodyBytes payload).drop (runLen + 1) = runBody (secondRun payload) := by
  by_cases hne : secondRun payload = []
  · have hlen : (runBody (firstRun payload)).length ≤ runLen + 1 := by
      rw [length_runBody]
      exact Nat.add_le_add (length_firstRun_le payload) (Nat.min_le_left _ _)
    simpa [bodyBytes, hne, runBody] using hlen
  · have hfull := length_firstRun_of_secondRun_ne_nil hne
    exact List.drop_left' (by rw [length_runBody, hfull]; rfl)

/-- The first run's side-channel byte stands behind the run (R87). -/
theorem side_bodyBytes (payload : List Byte) :
    ((bodyBytes payload).drop (firstRun payload).length).take 1 = sideBytes (firstRun payload) := by
  rw [bodyBytes, List.drop_append_of_le_length (by simp [length_runBody]), drop_runBody]
  by_cases hne : secondRun payload = []
  · simp [hne, runBody, length_sideBytes_le]
  · have hfull := length_firstRun_of_secondRun_ne_nil hne
    rw [sideBytes_eq (List.ne_nil_of_length_pos (by rw [hfull]; decide))]
    rfl

/-- The body bytes split into what they were put together from (R87). -/
theorem splitBody_bodyBytes {payload : List Byte} (h : payload.length ≤ payloadMax) :
    splitBody (bodyBytes payload) =
      some ⟨payload, sideBytes (firstRun payload) ++ sideBytes (secondRun payload)⟩ := by
  have hside : ((bodyBytes payload).drop (runLen + 1 + (secondRun payload).length)).take 1 =
      sideBytes (secondRun payload) := by
    rw [← List.drop_drop, drop_bodyBytes, drop_runBody, List.take_of_length_le (length_sideBytes_le _)]
  simp only [splitBody, length_bodyBytes h, find?_bodyCount h, ← length_firstRun, ← length_secondRun,
    take_bodyBytes, side_bodyBytes, drop_bodyBytes, hside, take_runBody, headD_sideBytes,
    restoreRun_sideByte (length_firstRun_le payload), restoreRun_sideByte (length_secondRun_le h),
    firstRun_append_secondRun]

/-- The checksum of what is read back is the one that was sent (R85, R87). -/
theorem receivedChecksum_eq (s : Byte) (payload : List Byte) :
    receivedChecksum s ⟨payload, sideBytes (firstRun payload) ++ sideBytes (secondRun payload)⟩ =
      clip (checksumX s payload) := by
  simp only [receivedChecksum, checksumX, xorAll_append, xorAll_sideBytes, BitVec.xor_assoc]

theorem isStart_eq_false_of_mem_bodyBytes {payload : List Byte} (h : payload.length ≤ payloadMax) {b : Byte}
    (hb : b ∈ bodyBytes payload) : isStart b = false := by
  rcases List.mem_append.mp hb with hb | hb
  · exact isStart_eq_false_of_mem_runBody (length_firstRun_le payload) hb
  · exact isStart_eq_false_of_mem_runBody (length_secondRun_le h) hb

/-- Settles O42: the body bytes are body bytes, they split as they were put together, and the checksum is theirs. -/
theorem decodeFrameInvertsEncodeFrame : Obligations.DecodeFrameInvertsEncodeFrame := by
  intro a p payload h
  have hbody : ∀ b ∈ bodyBytes payload, isStart b = false := fun b => isStart_eq_false_of_mem_bodyBytes h
  simpa [encodeFrame_eq, decodeFrame, splitBody_bodyBytes h, receivedChecksum_eq] using hbody

end Sys2Proof.Machine

/-! SUPPORT. The operations of the Frame Encoder (R121 to R123), each whole: what one call does between operations,
with room in the outgoing queue for what it pushes. -/

namespace Sys2Proof.Machine

/-! ## Operations of one and of two pushes -/

section
variable {s t u : State} {m m' : Micro} {rest : List Micro} (hquiet : s.quiet = true)
include hquiet

theorem begin_push (hroom : s.roomFor 1 = true) (hm : microStep m { s with todo := [] } = .next t)
    (ht : Ready t) : begin [m] s = .next t :=
  (run_succ_of_quiet (s := { s with todo := [m] }) hquiet rfl (.inr hroom) hm ht.2).trans (run_nil ht.1)

/-- The first push leaves one more to do. -/
theorem begin_push_push (hroom : s.roomFor 1 = true) (hm : microStep m { s with todo := rest } = .next t)
    (hto : t.todo = [m']) (hquiet' : t.quiet = true) (hroom' : t.roomFor 1 = true)
    (hm' : microStep m' { t with todo := [] } = .next u) (hu : Ready u) : begin (m :: rest) s = .next u :=
  calc begin (m :: rest) s
    _ = run (4 * s.cfg.rbSize + 15) t :=
      run_succ_of_quiet (s := { s with todo := m :: rest }) hquiet rfl (.inr hroom) hm hquiet'
    _ = run (4 * s.cfg.rbSize + 14) u := run_succ_of_quiet hquiet' hto (.inr hroom') hm' hu.2
    _ = .next u := run_nil hu.1

end

/-- Between operations nothing is left to do. -/
theorem Ready.withTodo_nil {s : State} (hs : Ready s) : { s with todo := [] } = s := by
  rw [← hs.1]

/-! ## START -/

theorem startByte_localAddr (p : BitVec 4) : startByte localAddr p = 0x80 ||| p.zeroExtend 8 := by
  simp [startByte, localAddr]

theorem execStart_eq {s : State} (p : BitVec 4) (hs : Ready s) (hroom : s.roomFor 1 = true) :
    execStart p s = .next (microPushStart (startByte localAddr p) s) :=
  begin_push hs.2 hroom (by rw [hs.withTodo_nil]; rfl) hs

/-- Settles O9: START is one push, and writes what that push writes. -/
theorem startBeginsFrame : Obligations.StartBeginsFrame := by
  intro p s hs hroom
  rw [← startByte_localAddr]
  exact execStart_eq p hs hroom

/-! ## SEND -/

/-- The payload byte has been pushed, and a side-channel byte that is due has not (R122). -/
def payloadPushed (b : Byte) (s : State) : State :=
  { s.pushed (clip b) with
    encHb := s.encHb ||| sideBit b s.encCnt, encCsum := s.encCsum ^^^ b,
    encCnt := s.encCnt + 1, encN := s.encN + 1 }

theorem microPushPayload_eq (b : Byte) (s : State) :
    microPushPayload b s =
      if s.encCnt + 1 = runLen then (payloadPushed b s).before [.pushSide] else payloadPushed b s := rfl

theorem execSend_eq_begin {b : Byte} {s : State} (hactive : s.encActive = true) (hn : s.encN ≠ payloadMax) :
    execSend b s = begin [.pushPayload b] s := by
  simp [execSend, hactive, hn]

section
variable {s : State} (b : Byte) (hs : Ready s) (hactive : s.encActive = true) (hn : s.encN ≠ payloadMax)
include hs hactive hn

/-- Inside a run SEND pushes the payload byte only (R122). -/
theorem execSend_inside_run (hcnt : s.encCnt + 1 ≠ runLen) (hroom : s.roomFor 1 = true) :
    execSend b s = .next (payloadPushed b s) := by
  rw [execSend_eq_begin hactive hn]
  refine begin_push hs.2 hroom ?_ hs
  rw [hs.withTodo_nil, microStep, microPushPayload_eq, if_neg hcnt]

/-- At the end of a run SEND pushes the side-channel byte too (R122). -/
theorem execSend_end_of_run (hcnt : s.encCnt + 1 = runLen) (hroom : s.roomFor 2 = true) :
    execSend b s = .next (microPushSide (payloadPushed b s)) := by
  have hpushed : Ready (payloadPushed b s) := hs
  rw [execSend_eq_begin hactive hn]
  refine begin_push_push (t := (payloadPushed b s).before [.pushSide]) (m' := .pushSide) hs.2
    (State.roomFor_mono (by decide) hroom) ?_ ?_ hs.2 (State.roomFor_pushed (clip b) hroom) ?_ hs
  · rw [hs.withTodo_nil, microStep, microPushPayload_eq, if_pos hcnt]
  · rw [State.before_todo, hpushed.1]
    rfl
  · exact congrArg (microStep .pushSide) hpushed.withTodo_nil

end

/-- Settles O10: the two faults, then SEND inside a run and at its end. -/
theorem sendAddsPayloadByte : Obligations.SendAddsPayloadByte := by
  refine fun b s => ⟨fun hactive => ?_, fun hactive hfull => ?_,
    fun hs hactive hn => ⟨fun hcnt => ?_, fun hcnt hroom => ?_⟩⟩
  · exact if_pos hactive
  · simp [exec, execSend, hactive, hfull, payloadMax]
  · exact execSend_inside_run b hs hactive hn hcnt
  · refine (execSend_end_of_run b hs hactive hn hcnt hroom).trans ?_
    simp [microPushSide, payloadPushed, State.pushed, clip, sideBit]

/-! ## END -/

theorem execEndFrame_eq_begin {s : State} (hactive : s.encActive = true) :
    execEndFrame s = begin (if s.encCnt ≠ 0 then [.pushSide, .pushCheck] else [.pushCheck]) s := by
  rw [execEndFrame, if_neg (by simp [hactive])]
  split <;> rfl

section
variable {s : State} (hs : Ready s) (hactive : s.encActive = true)
include hs hactive

/-- With no run pending END pushes the checksum only (R123). -/
theorem execEndFrame_no_run (hcnt : s.encCnt = 0) (hroom : s.roomFor 1 = true) :
    execEndFrame s = .next (microPushCheck s) := by
  rw [execEndFrame_eq_begin hactive, if_neg (by simp [hcnt])]
  exact begin_push hs.2 hroom (by rw [hs.withTodo_nil]; rfl) hs

/-- With a run pending END pushes its side-channel byte before the checksum (R123). -/
theorem execEndFrame_pending_run (hcnt : s.encCnt ≠ 0) (hroom : s.roomFor 2 = true) :
    execEndFrame s = .next (microPushCheck (microPushSide s)) := by
  have hpushed : Ready (microPushSide s) := hs
  rw [execEndFrame_eq_begin hactive, if_pos hcnt]
  refine begin_push_push (t := { microPushSide s with todo := [.pushCheck] }) hs.2
    (State.roomFor_mono (by decide) hroom) rfl rfl hs.2 (State.roomFor_pushed (s.encHb.zeroExtend 8) hroom) ?_ hs
  exact congrArg (microStep .pushCheck) hpushed.withTodo_nil

end

/-- Settles O11: the fault, then END with no run pending and with one. -/
theorem endFinishesFrame : Obligations.EndFinishesFrame := by
  refine fun s => ⟨fun hactive => if_pos hactive, fun hs hactive => ⟨?_, fun hcnt hroom => ?_⟩⟩
  · exact execEndFrame_no_run hs hactive
  · refine (execEndFrame_pending_run hs hactive hcnt hroom).trans ?_
    simp [microPushCheck, microPushSide, State.pushed, clip]

end Sys2Proof.Machine

/-! SUPPORT. What the poll context leaves alone (R59, R126, R145), and what SEND and END push (R125), wherever the
operation stops. -/

namespace Sys2Proof.Machine

/-- Settles O14: the frame of the poll context, and that of the originating operations for `tail` and `ovf`. -/
theorem pollContextLeavesReceiveState : Obligations.PollContextLeavesReceiveState := by
  intro i s t hrx hreset h
  have hframe := exec_pollFrame hrx hreset h
  exact ⟨fun a => by rw [hframe.buf], hframe.buf, hframe.head, hframe.wr, hframe.mode,
    fun hpoll => exec_originating_frame (isOriginating_of_not_isReceive hrx hreset hpoll) h⟩

/-! ## Body bytes only -/

/-- A micro-step of SEND or END (R122, R123). -/
def Micro.pushesBody : Micro → Bool
  | .pushPayload _ | .pushSide | .pushCheck => true
  | _ => false

/-- Since `s` only body bytes have been pushed, and the rest of the operation pushes no other (R125). -/
structure BodyPushes (s t : State) : Prop where
  todo : ∀ m ∈ t.todo, m.pushesBody = true
  out  : ∃ bs : List Byte, t.out = s.out ++ symbols bs ∧ ∀ b ∈ bs, isStart b = false

theorem BodyPushes.ticked {s t : State} (h : BodyPushes s t) : BodyPushes s t.ticked := by
  obtain ⟨es, hes⟩ := t.ticked_eq
  rw [hes]
  exact ⟨h.todo, h.out⟩

/-- One more body byte pushed. -/
theorem BodyPushes.of_out_eq {s t u : State} {b : Byte} (h : BodyPushes s t) (hb : isStart b = false)
    (hout : u.out = t.out ++ [.byte b]) (htodo : ∀ m ∈ u.todo, m.pushesBody = true) : BodyPushes s u := by
  obtain ⟨bs, hbs, hbody⟩ := h.out
  refine ⟨htodo, bs ++ [b], by simp [hout, hbs, symbols], fun c hc => ?_⟩
  rcases List.mem_append.mp hc with hc | hc
  · exact hbody c hc
  · rw [List.mem_singleton.mp hc, hb]

/-- Seven bits are a body byte. -/
theorem isStart_zeroExtend (x : BitVec 7) : isStart (x.zeroExtend 8) = false := by
  simp [isStart]

theorem microStep_bodyPushes {m : Micro} {rest : List Micro} {s t u : State} (ht : BodyPushes s t)
    (hto : t.todo = m :: rest) (h : microStep m { t with todo := rest } = .next u) : BodyPushes s u := by
  obtain ⟨hm, hrest⟩ := List.forall_mem_cons.mp (hto ▸ ht.todo)
  cases m with
  | pushPayload b =>
    cases h
    rw [microPushPayload_eq]
    split
    · exact ht.of_out_eq (isStart_clip b) rfl (List.forall_mem_cons.mpr ⟨rfl, hrest⟩)
    · exact ht.of_out_eq (isStart_clip b) rfl hrest
  | pushSide => cases h; exact ht.of_out_eq (isStart_zeroExtend t.encHb) rfl hrest
  | pushCheck => cases h; exact ht.of_out_eq (isStart_clip t.encCsum) rfl hrest
  | _ => cases hm

theorem begin_bodyPushes {ms : List Micro} {s t : State} (hms : ∀ m ∈ ms, m.pushesBody = true)
    (h : begin ms s = .next t) : BodyPushes s t :=
  run_induction (P := BodyPushes s) (s := { s with todo := ms })
    (fun _ _ _ _ hu _ hto hm => (microStep_bodyPushes hu hto hm).ticked) ⟨hms, [], by simp [symbols], nofun⟩ h

theorem execSend_bodyPushes {b : Byte} {s t : State} (h : execSend b s = .next t) : BodyPushes s t := by
  unfold execSend at h
  split at h
  · cases h
  · split at h
    · cases h
    · exact begin_bodyPushes (by simp [Micro.pushesBody]) h

theorem execEndFrame_bodyPushes {s t : State} (h : execEndFrame s = .next t) : BodyPushes s t := by
  unfold execEndFrame at h
  split at h
  · cases h
  · split at h <;> exact begin_bodyPushes (by simp [Micro.pushesBody]) h

/-- Settles O13: each micro-step of SEND and END pushes a body byte. -/
theorem encoderPushesBodyBytesOnly : Obligations.EncoderPushesBodyBytesOnly := by
  rintro i s t (rfl | ⟨b, rfl⟩) h
  · exact (execEndFrame_bodyPushes h).out
  · exact (execSend_bodyPushes h).out

end Sys2Proof.Machine

/-! SUPPORT. Receive steps and the originating operations work on different parts of the state (R62, R126, R145):
neither reads what the other writes, so they commute. -/

namespace Sys2Proof.Machine

/-! ## A receive step does not read the poll side -/

/-- The state `p` with all that a receive step reads or writes taken from `s`. -/
def State.withPollSide (s p : State) : State :=
  { p with cfg := s.cfg, buf := s.buf, head := s.head, wr := s.wr, tail := s.tail, mode := s.mode, ovf := s.ovf }

section
variable (s p : State)

theorem placeStart_withPollSide (b : Byte) :
    placeStart b (s.withPollSide p) = (placeStart b s).withPollSide p := by
  unfold placeStart
  split <;> rfl

theorem inject_withPollSide (code : Byte) : inject code (s.withPollSide p) = (inject code s).withPollSide p := by
  rw [inject, inject, apply_ite (State.withPollSide · p)]
  rfl

theorem admitStart_withPollSide (b : Byte) :
    admitStart b (s.withPollSide p) = (admitStart b s).withPollSide p := by
  rw [admitStart, admitStart, placeStart_withPollSide, apply_ite (State.withPollSide · p)]
  rfl

theorem framingError_withPollSide : framingError (s.withPollSide p) = (framingError s).withPollSide p :=
  inject_withPollSide (abandon s) p rbMal

theorem overrun_withPollSide (b : Byte) : overrun b (s.withPollSide p) = (overrun b s).withPollSide p := by
  have hinject : inject rbHovf (abandon (s.withPollSide p)) = (inject rbHovf (abandon s)).withPollSide p :=
    inject_withPollSide (abandon s) p rbHovf
  unfold overrun
  rw [hinject, admitStart_withPollSide]
  split <;> rfl

theorem bodyWhileOpen_withPollSide (b : Byte) :
    bodyWhileOpen b (s.withPollSide p) = (bodyWhileOpen b s).withPollSide p := by
  rw [bodyWhileOpen, bodyWhileOpen, apply_ite (State.withPollSide · p), apply_ite (State.withPollSide · p)]
  rfl

theorem startNoRoom_withPollSide (b : Byte) (n : Nat) :
    startNoRoom b n (s.withPollSide p) = (startNoRoom b n s).withPollSide p := by
  rw [startNoRoom, startNoRoom, apply_ite (State.withPollSide · p), apply_ite (State.withPollSide · p)]
  rfl

theorem startWhileOpen_withPollSide (b : Byte) :
    startWhileOpen b (s.withPollSide p) = (startWhileOpen b s).withPollSide p := by
  have hroom := placeStart_withPollSide (closeOpen s) p b
  have hfull := startNoRoom_withPollSide (closeOpen s) p b s.head
  rw [startWhileOpen, startWhileOpen, startRoom, startRoom, apply_ite (State.withPollSide · p), ← hroom, ← hfull]
  rfl

/-- Every receive step gives the same receive side, whatever the poll side holds. -/
theorem rxByte_withPollSide (b : Byte) (fe ovr : Bool) :
    rxByte b fe ovr (s.withPollSide p) = (rxByte b fe ovr s).withPollSide p := by
  unfold rxByte
  cases fe with
  | true => exact framingError_withPollSide s p
  | false =>
    cases ovr with
    | true => exact overrun_withPollSide s p b
    | false =>
      have hmode : (s.withPollSide p).mode = s.mode := rfl
      rw [hmode]
      cases isStart b <;> cases s.mode
      · rfl
      · exact bodyWhileOpen_withPollSide s p b
      · exact admitStart_withPollSide s p b
      · exact startWhileOpen_withPollSide s p b

end

/-- A state of the same receive side gets the same new one (R126, R145). -/
theorem rxByte_of_same_receiveSide {b : Byte} {fe ovr : Bool} {s t : State} {buf : Memory} {head wr : Nat}
    {mode : Mode} {ovf : Bool} (hrx : rxByte b fe ovr s = s.withReceiveSide buf head wr mode ovf)
    (hframe : PollFrame s t) (htail : t.tail = s.tail) (hovf : t.ovf = s.ovf) :
    rxByte b fe ovr t = t.withReceiveSide buf head wr mode ovf := by
  have ht : s.withPollSide t = t := by
    rw [State.withPollSide, ← hframe.cfg, ← hframe.buf, ← hframe.head, ← hframe.wr, ← hframe.mode, ← htail, ← hovf]
  calc rxByte b fe ovr t
    _ = (rxByte b fe ovr s).withPollSide t := by rw [← rxByte_withPollSide, ht]
    _ = (s.withPollSide t).withReceiveSide buf head wr mode ovf := by rw [hrx]; rfl
    _ = t.withReceiveSide buf head wr mode ovf := by rw [ht]

/-! ## An originating operation does not read the receive side -/

/-- Apply a function to the state an outcome goes on with; a fault and a refusal stay. -/
def mapNext (f : State → State) : Host.Outcome State Fault Refusal → Host.Outcome State Fault Refusal
  | .next s    => .next (f s)
  | .fault r   => .fault r
  | .refused r => .refused r

section
variable (buf : Memory) (head wr : Nat) (mode : Mode) (ovf : Bool) (s : State)

theorem ticked_withReceiveSide :
    (s.withReceiveSide buf head wr mode ovf).ticked = s.ticked.withReceiveSide buf head wr mode ovf := by
  have hagenda : (s.withReceiveSide buf head wr mode ovf).agenda = s.agenda := rfl
  unfold State.ticked
  rw [hagenda]
  split <;> rfl

theorem microStep_withReceiveSide {m : Micro} (hm : m.originates = true) :
    microStep m (s.withReceiveSide buf head wr mode ovf) =
      mapNext (·.withReceiveSide buf head wr mode ovf) (microStep m s) := by
  cases m with
  | pushPayload b =>
    have hpush : microPushPayload b (s.withReceiveSide buf head wr mode ovf) =
        (microPushPayload b s).withReceiveSide buf head wr mode ovf := by
      rw [microPushPayload_eq, microPushPayload_eq, apply_ite (State.withReceiveSide · buf head wr mode ovf)]
      rfl
    exact congrArg Host.Outcome.next hpush
  | pushStart | pushSide | pushCheck | pushIdle => rfl
  | _ => cases hm

/-- A micro-step of an originating operation always answers a next state. -/
theorem exists_microStep_of_originates {m : Micro} (hm : m.originates = true) : ∃ t, microStep m s = .next t := by
  cases m with
  | pushStart | pushPayload | pushSide | pushCheck | pushIdle => exact ⟨_, rfl⟩
  | _ => cases hm

theorem run_withReceiveSide (n : Nat) (htodo : ∀ m ∈ s.todo, m.originates = true) :
    run n (s.withReceiveSide buf head wr mode ovf) =
      mapNext (·.withReceiveSide buf head wr mode ovf) (run n s) := by
  induction n generalizing s with
  | zero => rfl
  | succ n ih =>
    cases hto : s.todo with
    | nil => rw [run_nil hto, run_nil (by exact hto)]; rfl
    | cons m rest =>
      cases hr : s.running with
      | false => rw [run_stops hr, run_stops (by exact hr)]; rfl
      | true =>
        obtain ⟨hm, hrest⟩ := List.forall_mem_cons.mp (hto ▸ htodo)
        obtain ⟨t, ht⟩ := exists_microStep_of_originates { s with todo := rest } hm
        have hreceive := microStep_withReceiveSide buf head wr mode ovf { s with todo := rest } hm
        rw [ht] at hreceive
        rw [run_succ hr hto ht, run_succ (by exact hr) (by exact hto) hreceive, ticked_withReceiveSide]
        exact ih t.ticked (microStep_originating hm hrest ht).ticked.todo

theorem begin_withReceiveSide {ms : List Micro} (hms : ∀ m ∈ ms, m.originates = true) :
    begin ms (s.withReceiveSide buf head wr mode ovf) =
      mapNext (·.withReceiveSide buf head wr mode ovf) (begin ms s) :=
  run_withReceiveSide buf head wr mode ovf { s with todo := ms } (runLimit s.cfg) hms

/-- An originating operation does the same, whatever the receive side holds (R126, R145). -/
theorem exec_withReceiveSide {i : Instr} (hi : isOriginating i = true) :
    exec i (s.withReceiveSide buf head wr mode ovf) =
      mapNext (·.withReceiveSide buf head wr mode ovf) (exec i s) := by
  have hbegin {ms : List Micro} (u : State) (hms : ∀ m ∈ ms, m.originates = true) :=
    begin_withReceiveSide buf head wr mode ovf u hms
  cases i with
  | start p => exact hbegin (ms := [.pushStart (startByte localAddr p)]) s (by simp [Micro.originates])
  | send b =>
    have hpush := hbegin (ms := [.pushPayload b]) s (by simp [Micro.originates])
    simp only [exec, execSend]
    rw [hpush, apply_ite (mapNext _), apply_ite (mapNext _)]
    rfl
  | endFrame =>
    have hside := hbegin (ms := [.pushSide, .pushCheck]) s (by simp [Micro.originates])
    have hcheck := hbegin (ms := [.pushCheck]) s (by simp [Micro.originates])
    simp only [exec, execEndFrame]
    rw [hside, hcheck, apply_ite (mapNext _), apply_ite (mapNext _)]
    rfl
  | tick idle =>
    have hidle := hbegin (ms := [.pushIdle]) s.idleTicked (by simp [Micro.originates])
    simp only [exec, execTick]
    rw [apply_ite (mapNext _), ← hidle]
    rfl
  | sync now =>
    simp only [exec, execSync]
    rw [apply_ite (mapNext _), apply_ite (mapNext _)]
    rfl
  | rx | rxOvr | rxFe | rxFeOvr | poll | reset => cases hi

end

/-- An originating operation is one of the poll context, and not RESET. -/
theorem pollFrame_of_isOriginating {i : Instr} {s t : State} (hi : isOriginating i = true)
    (h : exec i s = .next t) : PollFrame s t := by
  refine exec_pollFrame ?_ ?_ h
  · cases i with
    | rx | rxOvr | rxFe | rxFeOvr => cases hi
    | _ => rfl
  · rintro rfl
    cases hi

/-- Settles O15: the receive step finds the receive side that it would have found first, and the operation the poll
side. -/
theorem receiveStepCommutesWithOriginating : Obligations.ReceiveStepCommutesWithOriginating := by
  intro i b fe ovr s hi
  obtain ⟨buf, head, wr, mode, ovf, hrx⟩ := rxByte_receiveSide b fe ovr s
  have hexec := exec_withReceiveSide buf head wr mode ovf s hi
  cases h : exec i s with
  | next t =>
    obtain ⟨htail, hovf⟩ := exec_originating_frame hi h
    have ht := rxByte_of_same_receiveSide hrx (pollFrame_of_isOriginating hi h) htail hovf
    simp [execAll, h, hexec, exec_rxInstr, hrx, ht, mapNext]
  | fault f => simp [execAll, h, hexec, exec_rxInstr, hrx, mapNext]
  | refused r => exact absurd h (exec_ne_refused i s r)

end Sys2Proof.Machine

/-! SUPPORT. A whole frame from the Frame Encoder (R124): where the encoder stands inside a frame, what one more SEND
and END add, and how a payload falls into full runs and the run that END closes. -/

namespace Sys2Proof.Machine

/-! ## Operations in sequence -/

theorem execAll_append {is js : List Instr} {s t : State} (h : execAll is s = .next t) :
    execAll (is ++ js) s = execAll js t := by
  induction is generalizing s with
  | nil => cases h; rfl
  | cons i is ih =>
    simp only [execAll] at h
    cases hi : exec i s with
    | next u => rw [hi] at h; rw [List.cons_append, execAll, hi]; exact ih h
    | fault f => rw [hi] at h; cases h
    | refused r => rw [hi] at h; cases h

/-! ## The side-channel accumulator -/

/-- Queueing a top bit adds the byte to the run of the side-channel byte (R84, R122). -/
theorem zeroExtend_or_sideBit {hb : BitVec 7} {q : List Byte} (b : Byte) (hside : hb.zeroExtend 8 = sideByte q)
    (hq : q.length < runLen) : (hb ||| sideBit b q.length).zeroExtend 8 = sideByte (q ++ [b]) := by
  refine BitVec.eq_of_getLsbD_eq fun i hi => ?_
  have hbit : (hb.zeroExtend 8).getLsbD i = (q.getD i 0).getLsbD 7 := by rw [hside, getLsbD_sideByte q hi]
  simp only [runLen] at hq
  rw [getLsbD_sideByte _ hi, BitVec.zeroExtend, BitVec.setWidth_or, BitVec.getLsbD_or, hbit]
  rcases Nat.lt_trichotomy i q.length with hlt | heq | hgt
  · simp [sideBit, hlt, List.getElem?_append_left hlt]
  · have hq8 : q.length < 8 := by omega
    simp [sideBit, heq, hq, hq8]
  · have hnot : i - q.length ≠ 0 := by omega
    have hge : (q ++ [b]).length ≤ i := by simpa using hgt
    simp [sideBit, hnot, hgt.le, List.getElem?_eq_none hge]

/-- An accumulator whose side-channel byte is that of the empty run is 0. -/
theorem eq_zero_of_zeroExtend_eq_zero {hb : BitVec 7} (h : hb.zeroExtend 8 = (0 : Byte)) : hb = 0 := by
  simpa using congrArg (BitVec.setWidth 7) h

/-! ## Inside a frame -/

/-- From `s` to `t` the encoder has opened a frame and pushed `sent`; the checksum stands at `x`, the bytes `q` of
the run begun last wait for their side-channel byte, and the payload is `n` bytes so far (R29 to R34). -/
structure MidFrame (s t : State) (sent : List Byte) (x : Byte) (q : List Byte) (n : Nat) : Prop where
  ready  : Ready t
  cfg    : t.cfg = s.cfg
  out    : t.out = s.out ++ symbols sent
  queued : t.queued = s.queued + sent.length
  active : t.encActive = true
  csum   : t.encCsum = x
  side   : t.encHb.zeroExtend 8 = sideByte q
  cnt    : t.encCnt = q.length
  count  : t.encN = n

theorem execStart_midFrame {s : State} (p : BitVec 4) (hs : Ready s) (hroom : s.roomFor 1 = true) :
    ∃ t, execStart p s = .next t ∧ MidFrame s t [startByte localAddr p] (startByte localAddr p) [] 0 :=
  ⟨_, execStart_eq p hs hroom, hs, rfl, rfl, rfl, rfl, rfl, rfl, rfl, rfl⟩

section
variable {s t : State} {sent : List Byte} {x : Byte} {q : List Byte} {n : Nat} (h : MidFrame s t sent x q n)
include h

/-- What the queue could take from `s` on, it can take what is left of now. -/
theorem MidFrame.roomFor {k : Nat} (hroom : s.roomFor (sent.length + k) = true) : t.roomFor k = true := by
  unfold State.roomFor at hroom ⊢
  rw [h.cfg, h.queued, Nat.add_assoc]
  exact hroom

/-- SEND inside a run (R122). -/
theorem MidFrame.send_inside_run (b : Byte) (hn : n ≠ payloadMax) (hq : q.length + 1 < runLen)
    (hroom : s.roomFor (sent.length + 1) = true) :
    ∃ u, execSend b t = .next u ∧ MidFrame s u (sent ++ [clip b]) (x ^^^ b) (q ++ [b]) (n + 1) := by
  have hcnt : t.encCnt + 1 ≠ runLen := by
    rw [h.cnt]
    exact hq.ne
  have hside := zeroExtend_or_sideBit b h.side (Nat.lt_of_succ_lt hq)
  rw [← h.cnt] at hside
  exact ⟨payloadPushed b t, execSend_inside_run b h.ready h.active (h.count ▸ hn) hcnt (h.roomFor hroom),
    { ready := h.ready
      cfg := h.cfg
      out := by simp [payloadPushed, h.out, symbols]
      queued := by simp [payloadPushed, h.queued, Nat.add_assoc]
      active := h.active
      csum := by simp [payloadPushed, h.csum]
      side := hside
      cnt := by simp [payloadPushed, h.cnt]
      count := by simp [payloadPushed, h.count] }⟩

/-- SEND of a run's last byte (R122). -/
theorem MidFrame.send_end_of_run (b : Byte) (hn : n ≠ payloadMax) (hq : q.length + 1 = runLen)
    (hroom : s.roomFor (sent.length + 2) = true) :
    ∃ u, execSend b t = .next u ∧
      MidFrame s u (sent ++ [clip b, sideByte (q ++ [b])]) (x ^^^ b ^^^ sideByte (q ++ [b])) [] (n + 1) := by
  have hside := zeroExtend_or_sideBit b h.side (Nat.lt_of_succ_le hq.le)
  rw [← h.cnt] at hside
  exact ⟨microPushSide (payloadPushed b t),
    execSend_end_of_run b h.ready h.active (h.count ▸ hn) (h.cnt.symm ▸ hq) (h.roomFor hroom),
    { ready := h.ready
      cfg := h.cfg
      out := by simp [microPushSide, payloadPushed, h.out, symbols, ← hside]
      queued := by simp [microPushSide, payloadPushed, h.queued, Nat.add_assoc]
      active := h.active
      csum := by simp [microPushSide, payloadPushed, h.csum, ← hside]
      side := rfl
      cnt := rfl
      count := by simp [microPushSide, payloadPushed, h.count] }⟩

/-- END (R123). -/
theorem MidFrame.endFrame (hroom : s.roomFor (sent.length + (sideBytes q).length + 1) = true) :
    ∃ u, execEndFrame t = .next u ∧
      u.out = s.out ++ symbols (sent ++ sideBytes q ++ [clip (x ^^^ sideByte q)]) ∧
      u.encActive = false ∧ u.encHb = 0 ∧ u.encCnt = 0 := by
  by_cases hq : q = []
  · subst hq
    have hhb : t.encHb = 0 := eq_zero_of_zeroExtend_eq_zero h.side
    refine ⟨microPushCheck t, execEndFrame_no_run h.ready h.active h.cnt (h.roomFor hroom), ?_, rfl, hhb, h.cnt⟩
    simp [microPushCheck, h.out, h.csum, symbols, sideByte]
  · have hcnt : t.encCnt ≠ 0 := by simpa [h.cnt] using hq
    rw [sideBytes_eq hq] at hroom ⊢
    refine ⟨microPushCheck (microPushSide t), execEndFrame_pending_run h.ready h.active hcnt (h.roomFor hroom), ?_,
      rfl, rfl, rfl⟩
    simp [microPushCheck, microPushSide, h.out, h.csum, h.side, symbols]

end

/-! ## The SENDs of a run -/

/-- SENDs that do not complete their run. -/
theorem MidFrame.sends {s t : State} {sent : List Byte} {x : Byte} {q : List Byte} {n : Nat} {r : List Byte}
    (h : MidFrame s t sent x q n) (hn : n + r.length ≤ payloadMax) (hq : q.length + r.length < runLen)
    (hroom : s.roomFor (sent.length + r.length) = true) :
    ∃ u, execAll (r.map .send) t = .next u ∧
      MidFrame s u (sent ++ r.map clip) (x ^^^ xorAll r) (q ++ r) (n + r.length) := by
  induction r generalizing t sent x q n with
  | nil => exact ⟨t, rfl, by simpa [xorAll] using h⟩
  | cons b r ih =>
    rw [List.length_cons] at hn hq hroom
    obtain ⟨u, hu, hmid⟩ := h.send_inside_run b (by omega) (by omega) (State.roomFor_mono (by omega) hroom)
    obtain ⟨v, hv, hmid'⟩ := ih hmid (by omega) (by simp; omega) (State.roomFor_mono (by simp; omega) hroom)
    refine ⟨v, by simpa [execAll, exec, hu] using hv, ?_⟩
    have hxor : xorAll (b :: r) = b ^^^ xorAll r := by
      simpa [xorAll] using xorAll_append [b] r
    simpa [hxor, BitVec.xor_assoc, Nat.add_assoc, Nat.add_comm 1] using hmid'

/-- The SENDs of full runs: none, or one of them (R83). -/
theorem MidFrame.sends_full {s t : State} {sent : List Byte} {x : Byte} {f : List Byte}
    (h : MidFrame s t sent x [] 0) (hf : f = [] ∨ f.length = runLen)
    (hroom : s.roomFor (sent.length + (runBody f).length) = true) :
    ∃ u, execAll (f.map .send) t = .next u ∧
      MidFrame s u (sent ++ runBody f) (x ^^^ xorAll f ^^^ sideByte f) [] f.length := by
  rcases List.eq_nil_or_concat' f with rfl | ⟨r, b, rfl⟩
  · exact ⟨t, rfl, by simpa [runBody, xorAll, sideByte] using h⟩
  · have hr : r.length + 1 = runLen := by simpa using hf
    have hlen : (runBody (r ++ [b])).length = r.length + 2 := by simp [length_runBody]
    rw [hlen] at hroom
    simp only [runLen] at hr
    obtain ⟨u, hu, hmid⟩ := h.sends (r := r) (by simp [payloadMax]; omega) (by simp [runLen]; omega)
      (State.roomFor_mono (by omega) hroom)
    obtain ⟨v, hv, hmid'⟩ := hmid.send_end_of_run b (by simp [payloadMax]; omega) (by simp [runLen]; omega)
      (State.roomFor_mono (by simp; omega) hroom)
    refine ⟨v, ?_, ?_⟩
    · rw [List.map_append, execAll_append hu]
      simp [execAll, exec, hv]
    · have hxor : xorAll (r ++ [b]) = xorAll r ^^^ b := by simp [xorAll]
      simpa [hxor, runBody_eq, sideBytes_eq, BitVec.xor_assoc] using hmid'

/-! ## A whole frame -/

/-- A payload is full runs, none or one, and the run that END closes (R83 to R85). -/
theorem exists_full_runs {payload : List Byte} (h : payload.length ≤ payloadMax) :
    ∃ f q, payload = f ++ q ∧ (f = [] ∨ f.length = runLen) ∧ q.length < runLen ∧
      bodyBytes payload = runBody f ++ q.map clip ++ sideBytes q ∧
      ∀ x, checksumX x payload = x ^^^ xorAll f ^^^ sideByte f ^^^ xorAll q ^^^ sideByte q := by
  simp only [payloadMax] at h
  by_cases hlt : payload.length < runLen
  · have hfirst : firstRun payload = payload := List.take_of_length_le hlt.le
    have hsecond : secondRun payload = [] := List.drop_of_length_le hlt.le
    refine ⟨[], payload, rfl, .inl rfl, hlt, ?_, fun x => ?_⟩
    · simp [bodyBytes, hfirst, hsecond, runBody_eq]
    · simp [checksumX, hfirst, hsecond, sideByte, xorAll]
  · have hlen := length_secondRun payload
    simp only [runLen] at hlt hlen
    refine ⟨firstRun payload, secondRun payload, (firstRun_append_secondRun payload).symm, .inr ?_, ?_, ?_,
      fun x => ?_⟩
    · rw [length_firstRun]
      exact Nat.min_eq_left (Nat.le_of_not_lt hlt)
    · rw [hlen, runLen]
      omega
    · rw [bodyBytes, runBody_eq (secondRun payload), List.append_assoc]
    · have hxor : xorAll payload = xorAll (firstRun payload) ^^^ xorAll (secondRun payload) := by
        rw [← xorAll_append, firstRun_append_secondRun]
      rw [checksumX, hxor]
      ac_rfl

/-- Settles O12: START, the SENDs of the full runs, the SENDs of the last run, END. -/
theorem frameOpsPushTheWireFrame : Obligations.FrameOpsPushTheWireFrame := by
  intro p payload s hlen hs hroom
  obtain ⟨f, q, rfl, hf, hq, hbody, hsum⟩ := exists_full_runs hlen
  have hframe : encodeFrame 0 p (f ++ q) = [startByte localAddr p] ++ runBody f ++ q.map clip ++ sideBytes q ++
      [clip (startByte localAddr p ^^^ xorAll f ^^^ sideByte f ^^^ xorAll q ^^^ sideByte q)] := by
    rw [← hsum, encodeFrame_eq, hbody]
    simp [localAddr]
  rw [hframe] at hroom ⊢
  simp only [List.length_append, List.length_singleton, List.length_map] at hlen hroom
  obtain ⟨t, ht, hstart⟩ := execStart_midFrame p hs (State.roomFor_mono (by omega) hroom)
  obtain ⟨u, hu, hfull⟩ := hstart.sends_full hf (State.roomFor_mono (by simp; omega) hroom)
  obtain ⟨v, hv, hlast⟩ := hfull.sends (r := q) hlen (by simpa using hq) (State.roomFor_mono (by simp; omega) hroom)
  obtain ⟨w, hw, hout⟩ := hlast.endFrame (State.roomFor_mono (by simp) hroom)
  refine ⟨w, ?_, by simpa using hout⟩
  have hops : frameOps p (f ++ q) = [.start p] ++ (f.map .send ++ (q.map .send ++ [.endFrame])) := by
    simp [frameOps]
  have hfirst : execAll [.start p] s = .next t := by simp [execAll, exec, ht]
  rw [hops, execAll_append hfirst, execAll_append hu, execAll_append hv]
  simp [execAll, exec, hw]

end Sys2Proof.Machine

/-! SUPPORT. The operations of the Idle/Sync Manager (R141, R142), each whole: TICK by its count and by whether the
Idle Frame is due, SYNC by the modular distance of the counter from `sync.ref`. -/

namespace Sys2Proof.Machine

/-! ## TICK -/

@[simp] theorem toNat_satInc (b : Byte) : (satInc b).toNat = min (b.toNat + 1) 255 := by
  rw [satInc, BitVec.toNat_ofNat]
  omega

/-- The test of TICK reads the count after its increment (R141). -/
theorem idleDue_idleTicked_iff (t : Bool) (s : State) :
    s.idleTicked.idleDue t = true ↔
      s.cfg.idleThreshold ≤ min (s.idleCnt.toNat + 1) 255 ∧ t = true ∧ s.idleDone = false ∧ s.encActive = false := by
  simp [State.idleDue, and_assoc]

/-- A TICK that finds the Idle Frame due counts and makes the push of that frame (R141). -/
theorem execTick_of_due {t : Bool} {s : State} (hdue : s.idleTicked.idleDue t = true) (hs : Ready s)
    (hroom : s.roomFor 1 = true) : execTick t s = .next (microPushIdle s.idleTicked) := by
  have hticked : Ready s.idleTicked := hs
  rw [execTick, if_pos hdue]
  exact begin_push hs.2 hroom (by rw [hticked.withTodo_nil]; rfl) hs

/-- Any other TICK only counts (R141). -/
theorem execTick_of_not_due {t : Bool} {s : State} (hdue : ¬ s.idleTicked.idleDue t = true) :
    execTick t s = .next s.idleTicked :=
  if_neg hdue

/-- Settles O16: TICK with the Idle Frame due, and TICK without. -/
theorem tickCountsAndSendsIdleFrame : Obligations.TickCountsAndSendsIdleFrame := by
  intro t s
  exact ⟨fun hdue => execTick_of_due ((idleDue_idleTicked_iff t s).mpr hdue),
    fun hdue => execTick_of_not_due (mt (idleDue_idleTicked_iff t s).mp hdue)⟩

/-! ## SYNC -/

/-- `counterDiff` is the integer difference modulo 2^W (R9). -/
theorem natCast_counterDiff (c : Config) (a b : Nat) :
    (counterDiff c a b : Int) = ((a : Int) - (b : Int)) % (2 ^ c.timerWidth : Int) := by
  have hb : b % 2 ^ c.timerWidth ≤ 2 ^ c.timerWidth := (Nat.mod_lt b (Nat.two_pow_pos _)).le
  rw [counterDiff]
  push_cast [hb]
  calc ((a : Int) + (2 ^ c.timerWidth - b % 2 ^ c.timerWidth)) % 2 ^ c.timerWidth
    _ = (a - b % 2 ^ c.timerWidth + 2 ^ c.timerWidth) % 2 ^ c.timerWidth := by congr 1; ring
    _ = (a - b) % 2 ^ c.timerWidth := by rw [Int.add_emod_right, Int.sub_emod_emod]

/-- A counter read `elapsed` counts after `b` is at that distance from it, also after a rollover (R243). -/
theorem counterDiff_add_mod {c : Config} {elapsed : Nat} (b : Nat) (h : elapsed < 2 ^ c.timerWidth) :
    counterDiff c ((b + elapsed) % 2 ^ c.timerWidth) b = elapsed := by
  have helapsed : (elapsed : Int) % 2 ^ c.timerWidth = elapsed := by exact_mod_cast Nat.mod_eq_of_lt h
  have hint : (counterDiff c ((b + elapsed) % 2 ^ c.timerWidth) b : Int) = elapsed := by
    rw [natCast_counterDiff]
    push_cast
    rw [Int.emod_sub_emod, add_sub_cancel_left, helapsed]
  exact_mod_cast hint

/-- Outside a local frame SYNC with a W-bit counter value takes the pause when it is due, and does nothing
otherwise (R142). -/
theorem execSync_eq {now : Nat} {s : State} (hactive : s.encActive = false) (hnow : now < 2 ^ s.cfg.timerWidth) :
    execSync now s =
      if s.cfg.syncInterval ≤ counterDiff s.cfg now s.syncRef then .next { s.pushedGap with syncRef := now }
      else .next s := by
  have hvalue : counterValue s.cfg now = now := Nat.mod_eq_of_lt hnow
  simp [execSync, State.syncDue, hactive, hvalue]

/-- Settles O18: the fault, then the test of SYNC read in the integers. -/
theorem syncTakesDuePause : Obligations.SyncTakesDuePause := by
  refine fun now s hwf => ⟨fun hactive => if_pos hactive, fun hactive => ?_⟩
  rw [← natCast_counterDiff]
  simp only [Int.ofNat_le]
  exact execSync_eq hactive (of_decide_eq_true hwf)

/-- Settles O19: the distance that SYNC tests is `elapsed`. -/
theorem syncMeasuresElapsedAcrossRollover : Obligations.SyncMeasuresElapsedAcrossRollover := by
  intro elapsed s hactive _ helapsed
  have hexec := execSync_eq hactive (Nat.mod_lt (s.syncRef + elapsed) (Nat.two_pow_pos s.cfg.timerWidth))
  rw [counterDiff_add_mod s.syncRef helapsed] at hexec
  by_cases hdue : s.cfg.syncInterval ≤ elapsed
  · rw [if_pos hdue] at hexec ⊢
    exact ⟨_, hexec, rfl⟩
  · rw [if_neg hdue] at hexec ⊢
    exact ⟨s, hexec, (List.append_nil s.out).symm⟩

end Sys2Proof.Machine

/-! SUPPORT. The receive table row by row (R160 to R173): what each named change of the receive state does with a free
cell and without one, and which change an RX runs by the byte and the mode. -/

namespace Sys2Proof.Machine

/-! ## With a free cell and without -/

section
variable {code b : Byte} {s : State}

theorem inject_of_room (h : s.inc s.head ≠ s.tail) : inject code s = publishCode code s := if_pos h

theorem inject_of_full (h : s.inc s.head = s.tail) : inject code s = s.sacrificed := if_neg (not_not.mpr h)

theorem placeStart_of_reserved (h : addr b = reservedAddr) : placeStart b s = publishCode rbCtl s := if_pos h

theorem placeStart_of_addr_ne (h : addr b ≠ reservedAddr) : placeStart b s = openFrame b s := if_neg h

theorem admitStart_of_room (h : s.inc s.head ≠ s.tail) : admitStart b s = placeStart b s := if_neg h

theorem admitStart_of_full (h : s.inc s.head = s.tail) : admitStart b s = s.sacrificed := if_pos h

theorem overrun_of_start (h : isStart b = true) : overrun b s = admitStart b (inject rbHovf (abandon s)) := if_pos h

theorem overrun_of_body (h : isStart b = false) : overrun b s = inject rbHovf (abandon s) := by
  simp [overrun, h]

theorem room_iff : s.room = true ↔ s.inc s.wr ≠ s.tail := by simp [State.room]

theorem bodyWhileOpen_of_room (h : s.inc s.wr ≠ s.tail) : bodyWhileOpen b s = bodyAppend b s :=
  if_pos (room_iff.mpr h)

theorem bodyWhileOpen_of_full (h : s.inc s.wr = s.tail) :
    bodyWhileOpen b s = if s.tail = s.head then bodyOversize s else bodyEvict s :=
  if_neg fun hroom => room_iff.mp hroom h

theorem startWhileOpen_of_room (h : s.inc s.wr ≠ s.tail) : startWhileOpen b s = placeStart b (closeOpen s) :=
  if_pos (room_iff.mpr h)

theorem startWhileOpen_of_full (h : s.inc s.wr = s.tail) :
    startWhileOpen b s = startNoRoom b s.head (closeOpen s) :=
  if_neg fun hroom => room_iff.mp hroom h

end

/-! ## The frame just closed and no free cell (R173) -/

section
variable {b : Byte} {s : State}

theorem startNoRoom_of_ne (h : s.head ≠ s.tail) : startNoRoom b s.head (closeOpen s) = (closeOpen s).sacrificed :=
  if_neg h

/-- A cell is free behind the code that replaces the only unit: a legal start byte opens the next frame there. -/
theorem startNoRoom_opens (honly : s.head = s.tail) (hb : addr b ≠ reservedAddr)
    (hfree : s.inc (s.inc s.tail) ≠ s.tail) :
    startNoRoom b s.head (closeOpen s) = openFrame b (replaceOnly b (closeOpen s)) := by
  have htail : s.head = (closeOpen s).tail := honly
  rw [startNoRoom, if_pos htail]
  exact if_pos ⟨hb, hfree⟩

/-- The reserved address, or no free cell behind the code: the code stands alone. -/
theorem startNoRoom_replaces (honly : s.head = s.tail)
    (h : addr b = reservedAddr ∨ s.inc (s.inc s.tail) = s.tail) :
    startNoRoom b s.head (closeOpen s) = replaceOnly b (closeOpen s) := by
  have htail : s.head = (closeOpen s).tail := honly
  rw [startNoRoom, if_pos htail]
  exact if_neg fun ⟨hb, hfree⟩ => h.elim hb hfree

theorem oversizeCode_of_reserved (h : addr b = reservedAddr) : oversizeCode b = rbCtl := if_pos h

theorem oversizeCode_of_addr_ne (h : addr b ≠ reservedAddr) : oversizeCode b = rbMal := if_neg h

end

/-! ## RX by the byte and the mode (R160) -/

section
variable {b : Byte} {s : State}

theorem exec_rx_body_opened (hb : isStart b = false) (hmode : s.mode = .opened) :
    exec (.rx b) s = .next (bodyWhileOpen b s) := by
  simp [exec, execRx, rxByte, hb, hmode]

theorem exec_rx_body_discard (hb : isStart b = false) (hmode : s.mode = .discard) : exec (.rx b) s = .next s := by
  simp [exec, execRx, rxByte, hb, hmode]

theorem exec_rx_start_discard (hb : isStart b = true) (hmode : s.mode = .discard) :
    exec (.rx b) s = .next (admitStart b s) := by
  simp [exec, execRx, rxByte, hb, hmode]

theorem exec_rx_start_opened (hb : isStart b = true) (hmode : s.mode = .opened) :
    exec (.rx b) s = .next (startWhileOpen b s) := by
  simp [exec, execRx, rxByte, hb, hmode]

theorem exec_rxOvr (b : Byte) (s : State) : exec (.rxOvr b) s = .next (overrun b s) := rfl

end

/-! ## The rows -/

/-- Settles O20: the code is published where the abandoned frame began, or the flag is set. -/
theorem framingErrorRow : Obligations.FramingErrorRow := by
  intro b s t
  have ht : framingError s = t := by
    by_cases hroom : s.inc s.head ≠ s.tail
    · calc framingError s
        _ = publishCode rbMal (abandon s) := inject_of_room hroom
        _ = t := (if_pos hroom).symm
    · calc framingError s
        _ = (abandon s).sacrificed := inject_of_full (not_not.mp hroom)
        _ = t := (if_neg hroom).symm
  exact ⟨congrArg Host.Outcome.next ht, congrArg Host.Outcome.next ht⟩

/-- Settles O21: no free cell for the code, then the code followed by a body byte and by a start byte. -/
theorem overrunRow : Obligations.OverrunRow := by
  intro b s i published
  rw [exec_rxOvr]
  have hcode (hroom : i ≠ s.tail) : inject rbHovf (abandon s) = published := inject_of_room hroom
  refine ⟨fun hfull => ?_, fun hroom hb => ?_, fun hroom hb => ?_⟩
  · have hset : inject rbHovf (abandon s) = (abandon s).sacrificed := inject_of_full hfull
    cases hb : isStart b with
    | false => rw [overrun_of_body hb, hset]; rfl
    | true => rw [overrun_of_start hb, hset, admitStart_of_full (s := (abandon s).sacrificed) hfull]; rfl
  · rw [overrun_of_body hb, hcode hroom]
  · rw [overrun_of_start hb, hcode hroom]
    refine ⟨fun hfull => ?_, fun hfree haddr => ?_, fun hfree haddr => ?_⟩
    · rw [admitStart_of_full hfull]; rfl
    · rw [admitStart_of_room hfree, placeStart_of_reserved haddr]; rfl
    · rw [admitStart_of_room hfree, placeStart_of_addr_ne haddr]; rfl

/-- Settles O22: the byte is appended. -/
theorem bodyAppendRow : Obligations.BodyAppendRow := by
  intro b s hb hmode hroom
  rw [exec_rx_body_opened hb hmode, bodyWhileOpen_of_room hroom]
  rfl

/-- Settles O23: the open frame is the only content. -/
theorem bodyOversizeRow : Obligations.BodyOversizeRow := by
  intro b s hb hmode hfull honly
  rw [exec_rx_body_opened hb hmode, bodyWhileOpen_of_full hfull, if_pos honly]
  rfl

/-- Settles O24: units are closed before the open frame. -/
theorem bodyEvictRow : Obligations.BodyEvictRow := by
  intro b s hb hmode hfull hclosed
  rw [exec_rx_body_opened hb hmode, bodyWhileOpen_of_full hfull, if_neg hclosed]
  rfl

/-- Settles O25: the row of the body byte without an open frame. -/
theorem discardedBodyRow : Obligations.DiscardedBodyRow :=
  fun _ _ hb hmode => exec_rx_body_discard hb hmode

/-- Settles O26: no free cell, the reserved address, a legal one. -/
theorem startInDiscardRow : Obligations.StartInDiscardRow := by
  intro b s hb hmode
  rw [exec_rx_start_discard hb hmode]
  refine ⟨fun hfull => ?_, fun hroom haddr => ?_, fun hroom haddr => ?_⟩
  · rw [admitStart_of_full hfull]; rfl
  · rw [admitStart_of_room hroom, placeStart_of_reserved haddr]; rfl
  · rw [admitStart_of_room hroom, placeStart_of_addr_ne haddr]; rfl

/-- Settles O27: behind the frame just closed, the reserved address and a legal one. -/
theorem startWhileOpenRoomRow : Obligations.StartWhileOpenRoomRow := by
  intro b s hb hmode hroom
  rw [exec_rx_start_opened hb hmode, startWhileOpen_of_room hroom]
  refine ⟨fun haddr => ?_, fun haddr => ?_⟩
  · rw [placeStart_of_reserved haddr]; rfl
  · rw [placeStart_of_addr_ne haddr]
    simp [openFrame, closeOpen, State.setCell, State.inc, hmode]

/-- Settles O28: the frame just closed is the only unit and the code takes its place, alone or with the next frame
behind it, or it is not the only unit. -/
theorem startWhileOpenNoRoomRow : Obligations.StartWhileOpenNoRoomRow := by
  intro b s hb hmode hfull i
  rw [exec_rx_start_opened hb hmode, startWhileOpen_of_full hfull]
  refine ⟨fun honly haddr => ?_, fun honly haddr hring => ?_, fun honly haddr hfree => ?_, fun hother => ?_⟩
  · rw [startNoRoom_replaces honly (.inl haddr), replaceOnly, oversizeCode_of_reserved haddr]; rfl
  · rw [startNoRoom_replaces honly (.inr hring), replaceOnly, oversizeCode_of_addr_ne haddr]; rfl
  · rw [startNoRoom_opens honly haddr hfree, replaceOnly, oversizeCode_of_addr_ne haddr]
    simp [openFrame, closeOpen, State.setCell, State.inc, rbMal, i, hmode]
  · rw [startNoRoom_of_ne hother]; rfl

/-- Settles O31: a receive step keeps the poll side, and an overflow stays pending. -/
theorem receiveStepLeavesPollContextState : Obligations.ReceiveStepLeavesPollContextState := by
  intro b fe ovr s
  obtain ⟨hcfg, htail, hactive, hcsum, hhb, hcnt, hn, hidle, hdone, href, hout, hqueued, htodo, hagenda, hdraws⟩ :=
    rxByte_samePollSide b fe ovr s
  exact ⟨_, exec_rxInstr b fe ovr s, htail, fun hovf => rxByte_ovf hovf b fe ovr, hactive, hcsum, hhb, hcnt, hn,
    hidle, hdone, href, hout, hqueued, htodo, hagenda, hcfg, hdraws⟩

/-- Settles O29: every row keeps the buffer's invariants, and lets the closed region only grow. -/
theorem receiveStepKeepsBufferInvariant : Obligations.ReceiveStepKeepsBufferInvariant := by
  intro b fe ovr s hs
  obtain ⟨hbuffer, hgrows⟩ := rxByte_keepsBuffer b fe ovr s hs
  exact ⟨_, exec_rxInstr b fe ovr s, hbuffer, fun hunit => hgrows.atUnit hs.index hunit⟩

end Sys2Proof.Machine

/-! SUPPORT. A frame too long for the buffer (R167, R173, R175): the open frame fills the ring alone, and the byte that
finds no room leaves the Malformed-Packet in its place. -/

namespace Sys2Proof.Machine

/-- A legal start byte has another address than the reserved one (R81). -/
theorem addr_ne_of_isLegalStart {u : Byte} (h : isLegalStart u = true) : addr u ≠ reservedAddr := by
  intro e
  have haddr : u.toNat / 2 ^ 4 % 2 ^ 3 = 7 := by
    simpa [addr, reservedAddr, BitVec.extractLsb'_toNat, Nat.shiftRight_eq_div_pow] using congrArg BitVec.toNat e
  rw [isLegalStart_iff] at h
  omega

theorem execAll_cons {i : Instr} {is : List Instr} {s t : State} (h : exec i s = .next t) :
    execAll (i :: is) s = execAll is t := by
  simp [execAll, h]

/-- Body bytes without an open frame leave no trace (R169). -/
theorem execAll_rx_body_discard {body : List Byte} {s : State} (hbody : ∀ c ∈ body, isBody c = true)
    (hmode : s.mode = .discard) : execAll (rxOps body) s = .next s := by
  induction body with
  | nil => rfl
  | cons c body ih =>
    obtain ⟨hc, hrest⟩ := List.forall_mem_cons.mp hbody
    have hexec := exec_rx_body_discard (s := s) (by simpa [isBody] using hc) hmode
    exact (execAll_cons hexec).trans (ih hrest)

/-! ## Regions of one cell -/

theorem closedCells_of_span_eq_one {s : State} (h : s.span s.tail s.head = 1) : s.closedCells = [s.cell s.tail] := by
  rw [State.closedCells, h]; rfl

theorem openCells_of_span_eq_one {s : State} (h : s.span s.head s.wr = 1) : s.openCells = [s.cell s.head] := by
  rw [State.openCells, h]; rfl

/-! ## The open frame alone, and the code in its place -/

/-- The open frame is all that the buffer holds, and no overflow is pending. -/
structure OpenAlone (s : State) : Prop where
  buffer : BufferOk s
  mode   : s.mode = .opened
  empty  : s.head = s.tail
  ovf    : s.ovf = false

/-- One closed unit, the Malformed-Packet, is all that the buffer holds, and no overflow is pending. -/
structure MalformedAlone (s : State) : Prop where
  buffer : BufferOk s
  mode   : s.mode = .discard
  head   : s.head = s.inc s.tail
  cell   : s.cell s.tail = rbMal
  ovf    : s.ovf = false

/-- A start byte that an empty buffer takes opens a frame of one cell (R170). -/
theorem OpenAlone.of_start {u : Byte} {s : State} (hu : isLegalStart u = true) (hs : BufferOk s)
    (hempty : s.head = s.tail) (hovf : s.ovf = false) :
    OpenAlone (openFrame u s) ∧ (openFrame u s).span (openFrame u s).head (openFrame u s).wr = 1 :=
  ⟨⟨(openFrame_keepsBuffer hu (inc_head_ne_tail_of_empty hs hempty) hs).1, rfl, hempty, hovf⟩,
    State.span_inc_self hs.index.head_lt hs.size⟩

/-- A body byte that finds room makes the open frame one cell longer (R166). -/
theorem OpenAlone.append {c : Byte} {s : State} (h : OpenAlone s) (hc : isBody c = true)
    (hroom : s.inc s.wr ≠ s.tail) :
    OpenAlone (bodyAppend c s) ∧
      (bodyAppend c s).span (bodyAppend c s).head (bodyAppend c s).wr = s.span s.head s.wr + 1 := by
  obtain ⟨hs, hmode, hempty, hovf⟩ := h
  refine ⟨⟨(bodyAppend_keepsBuffer hc hmode hroom hs).1, hmode, hempty, hovf⟩, ?_⟩
  exact State.span_inc_right hs.index.head_lt hs.index.wr_lt (hempty ▸ hroom)

/-- A frame as long as the buffer can hold finds no room for one more byte (R56). -/
theorem OpenAlone.full {s : State} (h : OpenAlone s) (hlen : s.cfg.rbSize - 1 ≤ s.span s.head s.wr) :
    s.inc s.wr = s.tail := by
  by_contra hroom
  obtain ⟨hs, -, hempty, -⟩ := h
  have hgrow := State.span_inc_right hs.index.head_lt hs.index.wr_lt (hempty ▸ hroom)
  have hlt := State.span_lt (s := s) (b := s.inc s.wr) hs.index.head_lt
  omega

/-- The code takes the place of the open frame (R167, R173). -/
theorem OpenAlone.malformed {s : State} (h : OpenAlone s) : MalformedAlone (publishCode rbMal (abandon s)) := by
  obtain ⟨hs, -, hempty, hovf⟩ := h
  have hhead : s.inc s.head = s.inc s.tail := by rw [hempty]
  have hcell : (s.setCell s.head rbMal).cell s.tail = rbMal := hempty ▸ (cell_setCell_head rbMal hs).1
  exact ⟨(publishCode_abandon_keepsBuffer rfl hempty hs).1, rfl, hhead, hcell, hovf⟩

/-- Behind the Malformed-Packet there is room for another frame: R6 asks for three cells. -/
theorem MalformedAlone.room {s : State} (h : MalformedAlone s) : s.inc s.head ≠ s.tail := by
  have hsize := h.buffer.size
  have htail := h.buffer.index.tail_lt
  rw [h.head, State.inc_of_lt (State.inc_lt hsize _), State.inc_of_lt htail]
  split_ifs <;> omega

/-- The frame opened behind the Malformed-Packet leaves it as the only closed unit (R170, R173). -/
theorem MalformedAlone.regions_openFrame {b : Byte} {s : State} (h : MalformedAlone s) (hb : isLegalStart b = true) :
    (openFrame b s).closedCells = [rbMal] ∧ (openFrame b s).openCells = [b] ∧ (openFrame b s).ovf = false := by
  have hs := h.buffer
  have hindex := hs.index
  have hclosed : s.span s.tail s.head = 1 := h.head ▸ State.span_inc_self hindex.tail_lt hs.size
  have hopen : s.span s.head (s.inc s.head) = 1 := State.span_inc_self hindex.head_lt hs.size
  have hcode : (openFrame b s).cell s.tail = rbMal :=
    ((openFrame_keepsBuffer hb h.room hs).2.cell 0 (by omega)).trans h.cell
  have hstart : (openFrame b s).cell s.head = b := (cell_setCell_head b hs).1
  exact ⟨(closedCells_of_span_eq_one (s := openFrame b s) hclosed).trans (congrArg ([·]) hcode),
    (openCells_of_span_eq_one (s := openFrame b s) hopen).trans (congrArg ([·]) hstart), h.ovf⟩

/-! ## The bytes of the frame, one after another -/

/-- Body bytes enough to fill the buffer fill it, and any byte beyond puts the code in the frame's place. -/
theorem OpenAlone.rx_bodies {body : List Byte} {s : State} (h : OpenAlone s)
    (hbody : ∀ c ∈ body, isBody c = true) (hlen : s.cfg.rbSize - 1 ≤ s.span s.head s.wr + body.length) :
    ∃ t, execAll (rxOps body) s = .next t ∧ (OpenAlone t ∧ t.inc t.wr = t.tail ∨ MalformedAlone t) := by
  induction body generalizing s with
  | nil => exact ⟨s, rfl, .inl ⟨h, h.full hlen⟩⟩
  | cons c body ih =>
    obtain ⟨hc, hrest⟩ := List.forall_mem_cons.mp hbody
    have hexec := exec_rx_body_opened (b := c) (by simpa [isBody] using hc) h.mode
    by_cases hroom : s.inc s.wr = s.tail
    · rw [bodyWhileOpen_of_full hroom, if_pos h.empty.symm] at hexec
      have hcode : MalformedAlone (bodyOversize s) := h.malformed
      exact ⟨_, (execAll_cons hexec).trans (execAll_rx_body_discard hrest hcode.mode), .inr hcode⟩
    · rw [bodyWhileOpen_of_room hroom] at hexec
      obtain ⟨hopen, hgrow⟩ := h.append hc hroom
      have hlen' : s.cfg.rbSize - 1 ≤ s.span s.head s.wr + 1 + body.length := by
        rw [List.length_cons] at hlen; omega
      obtain ⟨t, ht, hfinal⟩ := ih hopen hrest (hgrow ▸ hlen')
      exact ⟨t, (execAll_cons hexec).trans ht, hfinal⟩

/-- The closing start byte opens the next frame behind the Malformed-Packet, which it puts there itself where the
frame has filled the buffer exactly (R170, R173). -/
theorem exec_rx_closing {b : Byte} {s : State} (hb : isLegalStart b = true)
    (h : OpenAlone s ∧ s.inc s.wr = s.tail ∨ MalformedAlone s) :
    ∃ t, exec (.rx b) s = .next (openFrame b t) ∧ MalformedAlone t := by
  have hstart := isStart_of_isLegalStart hb
  have haddr := addr_ne_of_isLegalStart hb
  obtain ⟨hopen, hfull⟩ | hcode := h
  · have hnext := hopen.malformed
    have hfree : s.inc (s.inc s.tail) ≠ s.tail := hnext.head ▸ hnext.room
    refine ⟨_, ?_, hnext⟩
    rw [exec_rx_start_opened hstart hopen.mode, startWhileOpen_of_full hfull,
      startNoRoom_opens hopen.empty haddr hfree, replaceOnly_closeOpen hopen.empty, oversizeCode_of_addr_ne haddr]
  · refine ⟨s, ?_, hcode⟩
    rw [exec_rx_start_discard hstart hcode.mode, admitStart_of_room hcode.room, placeStart_of_addr_ne haddr]

/-- Settles O44: the start byte opens the frame, the body fills or overfills the buffer, the closing byte follows. -/
theorem oversizedFrameBecomesMalformed : Obligations.OversizedFrameBecomesMalformed := by
  intro u body closing s hu hbody hclosing hs hmode htail hovf hlen
  have hempty : s.head = s.tail := htail.symm
  have hroom := inc_head_ne_tail_of_empty hs hempty
  have hexec : exec (.rx u) s = .next (openFrame u s) := by
    rw [exec_rx_start_discard (isStart_of_isLegalStart hu) hmode, admitStart_of_room hroom,
      placeStart_of_addr_ne (addr_ne_of_isLegalStart hu)]
  obtain ⟨hopen, hone⟩ := OpenAlone.of_start hu hs hempty hovf
  obtain ⟨t, ht, hfilled⟩ := hopen.rx_bodies hbody (by rw [hone, Nat.add_comm]; exact hlen)
  obtain ⟨v, hv, hcode⟩ := exec_rx_closing hclosing hfilled
  refine ⟨_, ?_, hcode.regions_openFrame hclosing⟩
  have hops : rxOps (u :: body ++ [closing]) = .rx u :: (rxOps body ++ [.rx closing]) := by simp [rxOps]
  rw [hops, execAll_cons hexec, execAll_append ht, execAll_cons hv]
  rfl

end Sys2Proof.Machine

/-! SUPPORT. The closed region as a list of cells (R57, R58): it is empty where `tail` has reached `head`, and loses its
first cell where `tail` moves past one. -/

namespace Sys2Proof.Machine

theorem State.cellsFrom_eq_map (s : State) (n i : Nat) :
    s.cellsFrom n i = (List.range n).map fun k => s.cell (i + k) := by
  induction n generalizing i with
  | zero => rfl
  | succ n ih => simp [State.cellsFrom, ih, List.range_succ_eq_map, State.cell_inc_add]

/-- The list depends on the cells it names only. -/
theorem State.cellsFrom_congr {s t : State} {n i : Nat} (h : ∀ k, k < n → t.cell (i + k) = s.cell (i + k)) :
    t.cellsFrom n i = s.cellsFrom n i := by
  simpa [State.cellsFrom_eq_map] using h

@[simp] theorem length_closedCells (s : State) : s.closedCells.length = s.span s.tail s.head := by
  simp [State.closedCells, State.cellsFrom_eq_map]

/-- The closed cells depend on the cells and on where the region begins and ends. -/
theorem closedCells_congr {s t : State} (hcfg : t.cfg = s.cfg) (hbuf : t.buf = s.buf) (htail : t.tail = s.tail)
    (hhead : t.head = s.head) : t.closedCells = s.closedCells := by
  simp [State.closedCells, State.cellsFrom_eq_map, State.cell, State.span, hcfg, hbuf, htail, hhead]

theorem closedCells_eq_nil_iff {s : State} (hs : IndexOk s) : s.closedCells = [] ↔ s.tail = s.head := by
  rw [← List.length_eq_zero_iff, length_closedCells, State.span_eq_zero hs.tail_lt hs.head_lt]

theorem closedCells_eq_cons {s : State} (hs : IndexOk s) (hne : s.tail ≠ s.head) :
    s.closedCells = s.cell s.tail :: s.consumed.closedCells := by
  have hrest : s.consumed.closedCells = s.cellsFrom (s.span (s.inc s.tail) s.head) (s.inc s.tail) :=
    State.cellsFrom_congr fun _ _ => rfl
  rw [hrest, State.closedCells, State.span_inc_left hs.tail_lt hs.head_lt hne, State.cellsFrom]

/-- What a first closed cell says of the state. -/
theorem closedCells_cons {s : State} {u : Byte} {cs : List Byte} (hs : IndexOk s) (h : s.closedCells = u :: cs) :
    s.tail ≠ s.head ∧ s.cell s.tail = u ∧ s.consumed.closedCells = cs := by
  have hne : s.tail ≠ s.head := fun e => by simp [(closedCells_eq_nil_iff hs).mpr e] at h
  rw [closedCells_eq_cons hs hne, List.cons.injEq] at h
  exact ⟨hne, h⟩

/-- The unit at `tail` ends behind its first cell where the cells behind it start a unit (R58). -/
theorem unitEnds_eq_startsUnit {s : State} {u : Byte} {cs : List Byte} (hs : BufferOk s)
    (h : s.closedCells = u :: cs) : unitEnds s s.head = startsUnit cs := by
  obtain ⟨hne, -, rfl⟩ := closedCells_cons hs.index h
  have hs' := (bufferOk_consumed hs hne).index
  by_cases hend : s.inc s.tail = s.head
  · rw [unitEnds_of_inc_eq hend, (closedCells_eq_nil_iff hs').mpr hend, startsUnit]
  · rw [unitEnds_of_inc_ne hend, closedCells_eq_cons hs' hend, startsUnit]
    rfl

/-! ## `tail` some cells on -/

/-- `tail` moved past `k` cells. -/
def State.advanced (s : State) (k : Nat) : State := { s with tail := (s.tail + k) % s.cfg.rbSize }

theorem State.advanced_zero {s : State} (hs : IndexOk s) : s.advanced 0 = s := by
  simp [State.advanced, Nat.mod_eq_of_lt hs.tail_lt]

theorem State.advanced_succ (s : State) (k : Nat) : s.advanced (k + 1) = s.consumed.advanced k := by
  simp [State.advanced, State.consumed, State.inc, Nat.add_comm k 1, Nat.add_assoc]

/-- Past all closed cells `tail` is at `head`. -/
theorem State.advanced_span {s : State} (hs : IndexOk s) :
    s.advanced (s.span s.tail s.head) = { s with tail := s.head } := by
  rw [State.advanced, State.add_span_mod hs.tail_lt hs.head_lt]

end Sys2Proof.Machine

/-! SUPPORT. What the relay pushes: bytes one after another, frames that each reset the idle tracker (R209), and the
Soft-Overflow report (R66). -/

namespace Sys2Proof.Machine

/-- The bytes pushed one after another. -/
def State.sends (s : State) (bs : List Byte) : State :=
  { s with out := s.out ++ symbols bs, queued := s.queued + bs.length }

/-- Frames of these bytes emitted: where there is one, the tracker is reset (R209). -/
def State.emitted (s : State) (bs : List Byte) : State :=
  { s.sends bs with
    idleCnt := if bs = [] then s.idleCnt else 0, idleDone := if bs = [] then s.idleDone else false }

/-- The Soft-Overflow report that the test of `ovf` finds due (R202, R204, R207). -/
def State.report (s : State) : List Byte := if s.ovf then softFrame else []

theorem State.sends_nil (s : State) : s.sends [] = s := by simp [State.sends, symbols]

theorem State.sends_cons (s : State) (b : Byte) (bs : List Byte) : s.sends (b :: bs) = (s.pushed b).sends bs := by
  simp [State.sends, State.pushed, symbols, Nat.add_assoc, Nat.add_comm 1]

theorem State.emitted_nil (s : State) : s.emitted [] = s := by simp [State.emitted, State.sends, symbols]

theorem State.emitted_cons (s : State) (b : Byte) (bs : List Byte) :
    s.emitted (b :: bs) = (s.trackerReset.pushed b).sends bs := by
  rw [← State.sends_cons]; rfl

/-- Frames one after another. -/
theorem State.emitted_emitted (s : State) (bs cs : List Byte) :
    (s.emitted bs).emitted cs = s.emitted (bs ++ cs) := by
  cases bs with
  | nil => rw [State.emitted_nil, List.nil_append]
  | cons b bs => simp [State.emitted, State.sends, symbols, Nat.add_comm, Nat.add_left_comm]

theorem State.ovfCleared_eq_self {s : State} (h : s.ovf = false) : s.ovfCleared = s := by rw [State.ovfCleared, ← h]

theorem State.report_eq_nil {s : State} (h : s.ovf = false) : s.report = [] := by simp [State.report, h]

theorem State.report_eq_softFrame {s : State} (h : s.ovf = true) : s.report = softFrame := by
  simp [State.report, h]

/-- Room for the report that is due, behind `n` other bytes, is room for its four bytes. -/
theorem State.roomFor_report {s : State} {n : Nat} (h : s.roomFor (n + s.report.length) = true)
    (hovf : s.ovf = true) : s.roomFor (n + 4) = true := by rwa [State.report_eq_softFrame hovf] at h

/-- Pushed bytes use up as many free slots. -/
theorem State.roomFor_emitted {s : State} {n : Nat} (bs : List Byte) (h : s.roomFor (bs.length + n) = true) :
    (s.emitted bs).roomFor n = true := by
  cases hq : s.cfg.outqSize with
  | none => simp [State.roomFor, State.emitted, State.sends, hq]
  | some k =>
    simp only [State.roomFor, hq, decide_eq_true_eq] at h
    simpa [State.roomFor, State.emitted, State.sends, hq, Nat.add_assoc] using h

end Sys2Proof.Machine

/-! SUPPORT. A relay call inside which no event falls, as a chain of stretches of micro-steps: where each leads, and
the most micro-steps it takes. -/

namespace Sys2Proof.Machine

/-- At most `n` micro-steps lead from `s` with `ms` to do to `t` with `ms'` to do. -/
def Leads (n : Nat) (s : State) (ms : List Micro) (t : State) (ms' : List Micro) : Prop :=
  ∃ m, m ≤ n ∧ ∀ k, run (m + k) { s with todo := ms } = run k { t with todo := ms' }

section
variable {n n' : Nat} {s t u : State} {ms ms' ms'' : List Micro}

theorem Leads.refl (s : State) (ms : List Micro) : Leads 0 s ms s ms :=
  ⟨0, Nat.le_refl 0, fun k => by rw [Nat.zero_add]⟩

theorem Leads.trans (h : Leads n s ms t ms') (h' : Leads n' t ms' u ms'') : Leads (n + n') s ms u ms'' := by
  obtain ⟨m, hm, hrun⟩ := h
  obtain ⟨m', hm', hrun'⟩ := h'
  exact ⟨m + m', by omega, fun k => by rw [Nat.add_assoc, hrun, hrun']⟩

theorem Leads.mono (h : Leads n s ms t ms') (hn : n ≤ n') : Leads n' s ms t ms' := by
  obtain ⟨m, hm, hrun⟩ := h
  exact ⟨m, hm.trans hn, hrun⟩

/-- An operation that comes to its end within the limit has run whole. -/
theorem Leads.run_eq {l : Nat} (h : Leads n s ms t []) (hn : n ≤ l) :
    run l { s with todo := ms } = .next { t with todo := [] } := by
  obtain ⟨m, hm, hrun⟩ := h
  obtain ⟨k, rfl⟩ := Nat.exists_eq_add_of_le (hm.trans hn)
  rw [hrun, run_nil rfl]

end

/-- One micro-step. -/
theorem leads_one {s t : State} {m : Micro} {rest ms : List Micro} (hq : s.quiet = true)
    (hm : m.pushes = false ∨ s.roomFor 1 = true)
    (h : microStep m { s with todo := rest } = .next { t with todo := ms }) (hqt : t.quiet = true) :
    Leads 1 s (m :: rest) t ms :=
  ⟨1, Nat.le_refl 1, fun k => by
    rw [Nat.add_comm]
    exact run_succ_of_quiet (s := { s with todo := m :: rest }) hq rfl hm h hqt⟩

/-- POLL outside a local frame is the relay's loop from its top (R200). -/
theorem exec_poll_of_leads {n : Nat} {s t : State} (hactive : s.encActive = false)
    (h : Leads n s [.readHead] t []) (hn : n ≤ 4 * s.cfg.rbSize + 16) (ht : t.todo = []) :
    exec .poll s = .next t := by
  have hend : { t with todo := [] } = t := by rw [← ht]
  have hrun : begin [.readHead] s = .next t := (h.run_eq hn).trans (congrArg _ hend)
  simpa [exec, execPoll, hactive] using hrun

/-! ## Pushes and the test of `ovf` -/

section
variable {s : State} (hq : s.quiet = true)
include hq

theorem leads_push (b : Byte) (ms : List Micro) (hroom : s.roomFor 1 = true) :
    Leads 1 s (.push b :: ms) (s.pushed b) ms :=
  leads_one hq (.inr hroom) rfl hq

theorem leads_startFrame (b : Byte) (ms : List Micro) (hroom : s.roomFor 1 = true) :
    Leads 1 s (.startFrame b :: ms) (s.emitted [b]) ms := by
  rw [State.emitted_cons, State.sends_nil]
  exact leads_one hq (.inr hroom) rfl hq

theorem leads_pushes (bs : List Byte) (ms : List Micro) (hroom : s.roomFor bs.length = true) :
    Leads bs.length s (bs.map .push ++ ms) (s.sends bs) ms := by
  induction bs generalizing s with
  | nil => rw [State.sends_nil]; exact .refl s ms
  | cons b bs ih =>
    have hpush := leads_push hq b (bs.map .push ++ ms) (State.roomFor_mono (by simp) hroom)
    rw [State.sends_cons]
    exact (hpush.trans (ih (s := s.pushed b) hq (State.roomFor_pushed b hroom))).mono (by simp [Nat.add_comm])

/-- A fixed frame (R204). -/
theorem leads_emitFixed (bs : List Byte) (ms : List Micro) (hroom : s.roomFor bs.length = true) :
    Leads bs.length s (emitFixed bs ++ ms) (s.emitted bs) ms := by
  cases bs with
  | nil => rw [State.emitted_nil]; exact .refl s ms
  | cons b bs =>
    have hstart := leads_startFrame hq b (bs.map .push ++ ms) (State.roomFor_mono (by simp) hroom)
    rw [State.emitted_cons, State.sends_nil] at hstart
    rw [State.emitted_cons]
    exact (hstart.trans (leads_pushes (s := s.trackerReset.pushed b) hq bs ms
      (State.roomFor_pushed (s := s.trackerReset) b hroom))).mono (by simp [Nat.add_comm])

/-- The test of `ovf` with the report behind it, if one is due (R66). -/
theorem leads_testAndClear (ms : List Micro) (hroom : s.ovf = true → s.roomFor 4 = true) :
    Leads 5 s (.testAndClear :: ms) (s.ovfCleared.emitted s.report) ms := by
  cases hovf : s.ovf with
  | true =>
    rw [State.report_eq_softFrame hovf]
    have htest : Leads 1 s (.testAndClear :: ms) s.ovfCleared (emitFixed softFrame ++ ms) :=
      leads_one hq (.inl rfl) (by simp [microStep, microTestAndClear, hovf]; rfl) hq
    exact htest.trans (leads_emitFixed (s := s.ovfCleared) hq softFrame ms (hroom hovf))
  | false =>
    rw [State.report_eq_nil hovf, State.ovfCleared_eq_self hovf, State.emitted_nil]
    exact (leads_one hq (.inl rfl) (by simp [microStep, microTestAndClear, hovf]) hq).mono (by decide)

/-- A frame and the report behind it (R204, R207). -/
theorem leads_frame_report (bs : List Byte) (hroom : s.roomFor (bs.length + s.report.length) = true) :
    Leads (bs.length + 5) s (emitFixed bs ++ [.testAndClear]) (s.ovfCleared.emitted (bs ++ s.report)) [] := by
  have hframe := leads_emitFixed hq bs [.testAndClear] (State.roomFor_mono (Nat.le_add_right _ _) hroom)
  have htest := leads_testAndClear (s := s.emitted bs) hq []
    fun hovf => State.roomFor_emitted bs (State.roomFor_report hroom hovf)
  rw [← State.emitted_emitted]
  exact hframe.trans htest

/-- The report and a frame behind it (R204). -/
theorem leads_report_frame (bs : List Byte) (hroom : s.roomFor (bs.length + s.report.length) = true) :
    Leads (bs.length + 5) s (.testAndClear :: emitFixed bs) (s.ovfCleared.emitted (s.report ++ bs)) [] := by
  rw [Nat.add_comm] at hroom
  have htest := leads_testAndClear hq (emitFixed bs)
    fun hovf => State.roomFor_report (n := 0) (State.roomFor_mono (by omega) hroom) hovf
  have hframe := leads_emitFixed (s := s.ovfCleared.emitted s.report) hq bs []
    (State.roomFor_emitted (s := s.ovfCleared) _ hroom)
  rw [List.append_nil] at hframe
  rw [← State.emitted_emitted, Nat.add_comm]
  exact htest.trans hframe

end

/-! ## The top of the loop -/

section
variable {s : State} (hq : s.quiet = true)
include hq

theorem leads_readHead_of_empty (h : s.tail = s.head) : Leads 1 s [.readHead] s [.testAndClear] :=
  leads_one hq (.inl rfl) (congrArg Host.Outcome.next (if_pos h)) hq

theorem leads_readHead (h : s.tail ≠ s.head) : Leads 1 s [.readHead] s [.readUnit s.head] :=
  leads_one hq (.inl rfl) (congrArg Host.Outcome.next (if_neg h)) hq

/-- With no closed unit, only the overflow is reported (R202). -/
theorem leads_empty (h : s.tail = s.head) (hroom : s.ovf = true → s.roomFor 4 = true) :
    Leads 6 s [.readHead] (s.ovfCleared.emitted s.report) [] :=
  (leads_readHead_of_empty hq h).trans (leads_testAndClear hq [] hroom)

/-- The dispatch on a pseudo-frame code (R93, R204). -/
theorem leads_readUnit_of_pseudo (h : Nat) (hcode : isPseudo (s.cell s.tail) = true) :
    Leads 1 s [.readUnit h] s [.takePseudo (s.cell s.tail)] := by
  have hidle : s.cell s.tail ≠ idleByte := fun e => by rw [e] at hcode; exact absurd hcode (by decide)
  refine leads_one hq (.inl rfl) ?_ hq
  exact (if_neg hidle).trans (if_pos hcode)

end

/-! ## A pseudo unit -/

/-- The pseudo unit is consumed; its frame and the test of `ovf` follow in that order, or, only under `either`, in the
other (R204). -/
theorem microTakePseudo_cases (u : Byte) (s : State) :
    ∃ d, (s.cfg.mgmtSoftOrder = .after → d = s.draws) ∧
      (microTakePseudo u s =
          State.before { s.consumed with draws := d } (emitFixed (mgmtFrameOf u) ++ [.testAndClear]) ∨
        s.cfg.mgmtSoftOrder = .either ∧ microTakePseudo u s =
          State.before { s.consumed with draws := d } (.testAndClear :: emitFixed (mgmtFrameOf u))) := by
  unfold microTakePseudo
  cases horder : s.cfg.mgmtSoftOrder with
  | after =>
    have hdrawn : s.consumed.drawn = s.consumed := by simp [State.drawn, horder]
    exact ⟨s.draws, fun _ => rfl, .inl (by simp [State.softFirst, horder, hdrawn]; rfl)⟩
  | either =>
    have hdrawn : s.consumed.drawn = { s.consumed with draws := s.draws + 1 } := by simp [State.drawn, horder]
    refine ⟨s.draws + 1, nofun, ?_⟩
    rw [hdrawn]
    split
    · exact .inr ⟨rfl, rfl⟩
    · exact .inl rfl

/-- What the call pushes for a pseudo unit with the code `u` (R204). -/
def PseudoSent (s : State) (u : Byte) (bs : List Byte) : Prop :=
  bs = mgmtFrameOf u ++ s.report ∨ s.cfg.mgmtSoftOrder = .either ∧ bs = s.report ++ mgmtFrameOf u

section
variable {s : State} (hq : s.quiet = true)
include hq

theorem leads_takePseudo (u : Byte) (hroom : s.roomFor (4 + s.report.length) = true) :
    ∃ bs d, PseudoSent s u bs ∧ (s.cfg.mgmtSoftOrder = .after → d = s.draws) ∧
      Leads 10 s [.takePseudo u] ({ s.consumed.ovfCleared with draws := d }.emitted bs) [] := by
  obtain ⟨d, hd, hcases⟩ := microTakePseudo_cases u { s with todo := [] }
  rcases hcases with htake | ⟨horder, htake⟩
  · have hnext : Leads 1 s [.takePseudo u] { s.consumed with draws := d }
        (emitFixed (mgmtFrameOf u) ++ [.testAndClear]) := leads_one hq (.inl rfl) (congrArg _ htake) hq
    have hrest := leads_frame_report (s := { s.consumed with draws := d }) hq (mgmtFrameOf u) hroom
    exact ⟨_, d, .inl rfl, hd, hnext.trans hrest⟩
  · have hnext : Leads 1 s [.takePseudo u] { s.consumed with draws := d }
        (.testAndClear :: emitFixed (mgmtFrameOf u)) := leads_one hq (.inl rfl) (congrArg _ htake) hq
    have hrest := leads_report_frame (s := { s.consumed with draws := d }) hq (mgmtFrameOf u) hroom
    exact ⟨_, d, .inr ⟨horder, rfl⟩, hd, hnext.trans hrest⟩

/-- A pseudo unit at `tail`, from the top of the loop (R204). -/
theorem leads_pseudo_unit (hne : s.tail ≠ s.head) (hcode : isPseudo (s.cell s.tail) = true)
    (hroom : s.roomFor (4 + s.report.length) = true) :
    ∃ bs d, PseudoSent s (s.cell s.tail) bs ∧ (s.cfg.mgmtSoftOrder = .after → d = s.draws) ∧
      Leads 12 s [.readHead] ({ s.consumed.ovfCleared with draws := d }.emitted bs) [] := by
  obtain ⟨bs, d, hbs, hd, htake⟩ := leads_takePseudo hq (s.cell s.tail) hroom
  exact ⟨bs, d, hbs, hd, (leads_readHead hq hne).trans ((leads_readUnit_of_pseudo hq s.head hcode).trans htake)⟩

end

end Sys2Proof.Machine

/-! SUPPORT. POLL on the first cell alone: no closed unit (R202), a pseudo unit (R204), a cell that begins no unit
(R208). -/

namespace Sys2Proof.Machine

/-- POLL with no closed unit (R202). -/
theorem exec_poll_of_empty {s : State} (hs : Ready s) (hactive : s.encActive = false) (hempty : s.tail = s.head)
    (hroom : s.ovf = true → s.roomFor 4 = true) : exec .poll s = .next (s.ovfCleared.emitted s.report) :=
  exec_poll_of_leads hactive (leads_empty hs.2 hempty hroom) (by omega) hs.1

/-- Settles O32: the report of R90 if the flag was set, and else the same state. -/
theorem pollReportsOverflowOnEmptyBuffer : Obligations.PollReportsOverflowOnEmptyBuffer := by
  intro s hs hactive hempty
  refine ⟨fun hovf => ?_, fun hovf hroom => ?_⟩
  · rw [exec_poll_of_empty hs hactive hempty (by simp [hovf]), State.report_eq_nil hovf, State.emitted_nil,
      State.ovfCleared_eq_self hovf]
  · rw [exec_poll_of_empty hs hactive hempty fun _ => hroom, State.report_eq_softFrame hovf]
    rfl

/-- POLL of a pseudo unit (R204). -/
theorem exec_poll_of_pseudo {s : State} (hs : Ready s) (hactive : s.encActive = false) (hne : s.tail ≠ s.head)
    (hcode : isPseudo (s.cell s.tail) = true) (hroom : s.roomFor (4 + s.report.length) = true) :
    ∃ bs d, PseudoSent s (s.cell s.tail) bs ∧ (s.cfg.mgmtSoftOrder = .after → d = s.draws) ∧
      exec .poll s = .next ({ s.consumed.ovfCleared with draws := d }.emitted bs) := by
  obtain ⟨bs, d, hbs, hd, hleads⟩ := leads_pseudo_unit hs.2 hne hcode hroom
  exact ⟨bs, d, hbs, hd, exec_poll_of_leads hactive hleads (by omega) hs.1⟩

/-- Settles O33: each of the three codes has its frame, and the report goes with it. -/
theorem pollEmitsManagementFrame : Obligations.PollEmitsManagementFrame := by
  intro s u c hs hactive hne hcell hcode hroom mgmt soft
  obtain ⟨hpseudo, hmgmt⟩ : isPseudo u = true ∧ mgmtFrameOf u = mgmt := by
    obtain ⟨rfl, rfl⟩ | ⟨rfl, rfl⟩ | ⟨rfl, rfl⟩ := hcode <;> exact ⟨rfl, rfl⟩
  have hsoft : s.report = soft := rfl
  have hlen : s.report.length ≤ 4 := by unfold State.report; split <;> decide
  obtain ⟨bs, d, hbs, hd, hexec⟩ := exec_poll_of_pseudo hs hactive hne (hcell ▸ hpseudo)
    (State.roomFor_mono (by omega) hroom)
  rw [PseudoSent, hcell, hmgmt, hsoft] at hbs
  have hbs' : bs ≠ [] := by rcases hbs with rfl | ⟨-, rfl⟩ <;> simp [mgmt]
  refine ⟨bs, d, ?_, hbs, hd⟩
  rw [hexec]
  simp [State.emitted, State.sends, State.consumed, State.ovfCleared, hbs', State.inc]

/-- What a unit that no rule makes does to the call (R208). -/
theorem exec_poll_fault {s : State} (hs : Ready s) (hactive : s.encActive = false) (hne : s.tail ≠ s.head)
    (hpseudo : isPseudo (s.cell s.tail) = false) (hstart : isLegalStart (s.cell s.tail) = false) :
    exec .poll s = .fault .bufferInvariant := by
  have hidle : s.cell s.tail ≠ idleByte := fun e => by rw [e] at hstart; cases hstart
  have hunit : microStep (.readUnit s.head) { s with todo := [] } = .fault .bufferInvariant :=
    (if_neg hidle).trans ((if_neg (ne_true_of_eq_false hpseudo)).trans (if_neg (ne_true_of_eq_false hstart)))
  have hrun : { s with todo := [.readUnit s.head] }.running = true :=
    State.running_of_quiet (s := { s with todo := [.readUnit s.head] }) hs.2 rfl (.inl rfl)
  obtain ⟨m, hm, hhead⟩ := leads_readHead hs.2 hne
  obtain ⟨k, hk⟩ := Nat.exists_eq_add_of_le (show m + 1 ≤ runLimit s.cfg by simp only [runLimit]; omega)
  have hexec : exec .poll s = run (m + (k + 1)) { s with todo := [.readHead] } := by
    rw [Nat.add_comm k, ← Nat.add_assoc, ← hk]
    simp [exec, execPoll, hactive, begin, resume]
  rw [hexec, hhead]
  simp [run, hrun, hunit]

/-- Settles O37: the first clause is the contract, and a body byte or an unassigned code is of neither class of
R93. -/
theorem pollFaults : Obligations.PollFaults := by
  intro s
  refine ⟨fun hactive => by simp [exec, execPoll, hactive], fun u hs hactive hne hcell hu => ?_⟩
  have hlt := u.isLt
  have hpseudo : isPseudo u = false := by
    rw [Bool.eq_false_iff, Ne, isPseudo_iff]
    rintro (rfl | rfl | rfl) <;> revert hu <;> decide
  have hstart : isLegalStart u = false := by
    rw [Bool.eq_false_iff, Ne, isLegalStart_iff]
    rintro ⟨hlow, hhigh⟩
    rcases hu with hbody | ⟨hbig, -⟩
    · have := (isStart_iff u).mpr hlow
      simp [isStart, hbody] at this
    · omega
  exact exec_poll_fault hs hactive hne (hcell ▸ hpseudo) (hcell ▸ hstart)

end Sys2Proof.Machine

/-! SUPPORT. The relay's loop over whole units, where the closed cells are a given list: an Idle unit is consumed in
silence (R203), a data unit is forwarded (R205, R206). -/

namespace Sys2Proof.Machine

/-! ## An Idle unit -/

section
variable {s : State} (hq : s.quiet = true)
include hq

/-- The dispatch on the `0x80` of an Idle unit (R203). -/
theorem leads_readUnit_of_idle {h : Nat} (hcell : s.cell s.tail = idleByte) (hends : unitEnds s h = true) :
    Leads 2 s [.readUnit h] s [.skipIdle] := by
  by_cases hend : s.inc s.tail = h
  · exact .mono (n := 1) (leads_one hq (.inl rfl) ((if_pos hcell).trans (if_pos hend)) hq) (by decide)
  · have hread : Leads 1 s [.readUnit h] s [.peekIdle h] :=
      leads_one hq (.inl rfl) ((if_pos hcell).trans (if_neg hend)) hq
    have hstart : isStart (s.cell (s.inc s.tail)) = true := unitEnds_of_inc_ne hend ▸ hends
    exact hread.trans (leads_one hq (.inl rfl) (congrArg Host.Outcome.next (if_pos hstart)) hq)

theorem leads_idle_unit (hne : s.tail ≠ s.head) (hcell : s.cell s.tail = idleByte)
    (hends : unitEnds s s.head = true) : Leads 4 s [.readHead] s.consumed [.readHead] :=
  (leads_readHead hq hne).trans ((leads_readUnit_of_idle hq hcell hends).trans (leads_one hq (.inl rfl) rfl hq))

end

/-- The relay stands at the start of a unit, before the closed cells `cs`. -/
structure AtUnits (s : State) (cs : List Byte) : Prop where
  buffer : BufferOk s
  unit   : AtUnit s
  cells  : s.closedCells = cs

/-- Behind an Idle unit the next one starts (R203). -/
theorem AtUnits.consumed {s : State} {u : Byte} {cs : List Byte} (h : AtUnits s (u :: cs))
    (hcs : startsUnit cs = true) : AtUnits s.consumed cs := by
  obtain ⟨hs, -, hcells⟩ := h
  obtain ⟨hne, -, hrest⟩ := closedCells_cons hs.index hcells
  have hends := (unitEnds_eq_startsUnit hs hcells).trans hcs
  exact ⟨bufferOk_consumed hs hne, (unitEnds_head_iff s).mp hends, hrest⟩

/-- The leading Idle units are consumed, with four micro-steps each (R203). -/
theorem leads_dropIdle {s : State} {cs : List Byte} (hq : s.quiet = true) (h : AtUnits s cs) :
    ∃ k, k + (dropIdle cs).length = cs.length ∧ AtUnits (s.advanced k) (dropIdle cs) ∧
      Leads (4 * k) s [.readHead] (s.advanced k) [.readHead] := by
  have hzero : s.advanced 0 = s := State.advanced_zero h.buffer.index
  induction cs generalizing s with
  | nil => exact ⟨0, rfl, hzero.symm ▸ h, hzero.symm ▸ .refl s _⟩
  | cons u cs ih =>
    by_cases hidle : u = idleByte ∧ startsUnit cs = true
    · obtain ⟨rfl, hcs⟩ := hidle
      have h' := h.consumed hcs
      obtain ⟨k, hlen, hunits, hleads⟩ := ih (s := s.consumed) hq h' (State.advanced_zero h'.buffer.index)
      obtain ⟨hs, -, hcells⟩ := h
      obtain ⟨hne, hcell, -⟩ := closedCells_cons hs.index hcells
      have hone := leads_idle_unit hq hne hcell ((unitEnds_eq_startsUnit hs hcells).trans hcs)
      rw [dropIdle, if_pos ⟨rfl, hcs⟩]
      refine ⟨k + 1, by simp only [List.length_cons]; omega, ?_, ?_⟩
      · rwa [State.advanced_succ]
      · rw [State.advanced_succ]
        exact (hone.trans hleads).mono (by omega)
    · rw [dropIdle, if_neg hidle]
      exact ⟨0, by simp, hzero.symm ▸ h, hzero.symm ▸ .refl s _⟩

/-! ## A data unit -/

section
variable {s : State} (hq : s.quiet = true)
include hq

/-- Whether a data unit's start byte is the whole of it (R205). -/
theorem leads_forwardData (h : Nat) (u : Byte) :
    ∃ ms, forwardData h u { s with todo := [] } = { s with todo := ms } ∧
      Leads 1 s ms s [.takeStart h u (unitEnds s h), .testAndClear] := by
  by_cases hend : s.inc s.tail = h
  · refine ⟨_, if_pos hend, ?_⟩
    rw [unitEnds_of_inc_eq hend]
    exact (Leads.refl s _).mono (by decide)
  · refine ⟨_, if_neg hend, ?_⟩
    rw [unitEnds_of_inc_ne hend]
    exact leads_one hq (.inl rfl) rfl hq

/-- The dispatch on the start byte of a data unit (R93, R205). -/
theorem leads_readUnit_of_start {h : Nat} (hstart : isLegalStart (s.cell s.tail) = true)
    (hidle : s.cell s.tail = idleByte → unitEnds s h = false) :
    Leads 3 s [.readUnit h] s [.takeStart h (s.cell s.tail) (unitEnds s h), .testAndClear] := by
  obtain ⟨ms, hms, hforward⟩ := leads_forwardData hq h (s.cell s.tail)
  by_cases hcell : s.cell s.tail = idleByte
  · obtain ⟨hnext, hbody⟩ := unitEnds_eq_false (hidle hcell)
    have hnot : ¬ isStart (s.cell (s.inc s.tail)) = true := by simpa [isBody] using hbody
    have hpeek : Leads 1 s [.peekIdle h] s ms :=
      leads_one hq (.inl rfl) (congrArg Host.Outcome.next
        ((if_neg hnot).trans (hcell ▸ hms))) hq
    have hread : Leads 1 s [.readUnit h] s [.peekIdle h] :=
      leads_one hq (.inl rfl) ((if_pos hcell).trans (if_neg hnext)) hq
    exact hread.trans (hpeek.trans hforward)
  · have hread : Leads 1 s [.readUnit h] s ms :=
      leads_one hq (.inl rfl) ((if_neg hcell).trans ((if_neg (not_isPseudo_of_isLegalStart hstart)).trans
        ((if_pos hstart).trans (congrArg Host.Outcome.next hms)))) hq
    exact (hread.trans hforward).mono (by decide)

/-- Whether a body cell is the last of its unit (R205). -/
theorem leads_readBody (h : Nat) (d : Byte) (ms : List Micro) :
    Leads 2 s (.readBody h d :: ms) s (.takeBody h d (s.cell s.tail) (unitEnds s h) :: ms) := by
  by_cases hend : s.inc s.tail = h
  · rw [unitEnds_of_inc_eq hend]
    exact .mono (n := 1) (leads_one hq (.inl rfl) (congrArg Host.Outcome.next (if_pos hend)) hq) (by decide)
  · rw [unitEnds_of_inc_ne hend]
    have hread : Leads 1 s (.readBody h d :: ms) s (.peekBody h d (s.cell s.tail) :: ms) :=
      leads_one hq (.inl rfl) (congrArg Host.Outcome.next (if_neg hend)) hq
    exact hread.trans (leads_one hq (.inl rfl) rfl hq)

/-- The last body cell is repaired (R206). -/
theorem leads_last_body {h : Nat} (d : Byte) (ms : List Micro) (hends : unitEnds s h = true)
    (hroom : s.roomFor 1 = true) :
    Leads 4 s (.readBody h d :: ms) (s.consumed.pushed (s.cell s.tail ^^^ d)) ms := by
  have hread := leads_readBody hq h d ms
  rw [hends] at hread
  have htake : Leads 1 s (.takeBody h d (s.cell s.tail) true :: ms) s.consumed (.push (s.cell s.tail ^^^ d) :: ms) :=
    leads_one hq (.inl rfl) rfl hq
  exact hread.trans (htake.trans (leads_push (s := s.consumed) hq _ ms hroom))

/-- Every other body cell goes on as it is (R206). -/
theorem leads_inner_body {h : Nat} (d : Byte) (ms : List Micro) (hends : unitEnds s h = false)
    (hroom : s.roomFor 1 = true) :
    Leads 4 s (.readBody h d :: ms) (s.consumed.pushed (s.cell s.tail)) (.readBody h d :: ms) := by
  have hread := leads_readBody hq h d ms
  rw [hends] at hread
  have htake : Leads 1 s (.takeBody h d (s.cell s.tail) false :: ms) s.consumed
      (.push (s.cell s.tail) :: .readBody h d :: ms) := leads_one hq (.inl rfl) rfl hq
  exact hread.trans (htake.trans (leads_push (s := s.consumed) hq _ _ hroom))

end

theorem State.pushed_closedCells (s : State) (b : Byte) : (s.pushed b).closedCells = s.closedCells :=
  closedCells_congr rfl rfl rfl rfl

theorem State.emitted_closedCells (s : State) (bs : List Byte) : (s.emitted bs).closedCells = s.closedCells :=
  closedCells_congr rfl rfl rfl rfl

@[simp] theorem length_repairLast (d : Byte) (bs : List Byte) : (repairLast d bs).length = bs.length := by
  induction bs with
  | nil => rfl
  | cons b bs ih =>
    cases bs with
    | nil => rfl
    | cons c bs => exact congrArg (· + 1) ih

/-- The body cells of a unit, up to the last of them (R206). -/
theorem leads_body {body rest : List Byte} {s : State} (d : Byte) (ms : List Micro) (hq : s.quiet = true)
    (hs : BufferOk s) (hcells : s.closedCells = body ++ rest) (hne : body ≠ [])
    (hbody : ∀ c ∈ body, isBody c = true) (hrest : startsUnit rest = true) (hroom : s.roomFor body.length = true) :
    Leads (4 * body.length) s (.readBody s.head d :: ms) ((s.advanced body.length).sends (repairLast d body)) ms := by
  induction body generalizing s with
  | nil => exact absurd rfl hne
  | cons c body ih =>
    obtain ⟨htail, hcell, hcells'⟩ := closedCells_cons hs.index hcells
    have hends := unitEnds_eq_startsUnit hs hcells
    have hroom' : s.roomFor 1 = true := State.roomFor_mono (by simp) hroom
    subst hcell
    cases body with
    | nil =>
      exact leads_last_body hq d ms (hends.trans hrest) hroom'
    | cons c' body =>
      have hinner : unitEnds s s.head = false := by
        simpa [hends, startsUnit, isBody] using hbody c' (by simp)
      have hgo := ih (s := s.consumed.pushed (s.cell s.tail)) hq (bufferOk_consumed hs htail)
        ((State.pushed_closedCells _ _).trans hcells') (by simp)
        (fun x hx => hbody x (List.mem_cons_of_mem _ hx)) (State.roomFor_pushed (s := s.consumed) _ hroom)
      have hstep := leads_inner_body hq d ms hinner hroom'
      rw [List.length_cons, State.advanced_succ, repairLast, State.sends_cons]
      exact (hstep.trans hgo).mono (by omega)

/-- A data unit's start byte goes one hop on, and its body behind it (R205, R206). -/
theorem leads_takeStart {s : State} {u : Byte} {body rest : List Byte} (ms : List Micro) (hq : s.quiet = true)
    (hs : BufferOk s) (hcells : s.closedCells = u :: (body ++ rest)) (hbody : ∀ c ∈ body, isBody c = true)
    (hrest : startsUnit rest = true) (hroom : s.roomFor (forwardBytes u body).length = true) :
    Leads (4 * body.length + 2) s (.takeStart s.head u (startsUnit (body ++ rest)) :: ms)
      ((s.advanced (body.length + 1)).emitted (forwardBytes u body)) ms := by
  obtain ⟨htail, -, hcells'⟩ := closedCells_cons hs.index hcells
  have hs' := bufferOk_consumed hs htail
  have hroom' : s.roomFor 1 = true := State.roomFor_mono (by simp [forwardBytes]) hroom
  rw [State.advanced_succ]
  cases body with
  | nil =>
    have htake : Leads 1 s (.takeStart s.head u true :: ms) s.consumed (.startFrame (nextHop u) :: ms) :=
      leads_one hq (.inl rfl) rfl hq
    rw [List.nil_append, hrest, List.length_nil, State.advanced_zero hs'.index]
    exact htake.trans (leads_startFrame (s := s.consumed) hq _ ms hroom')
  | cons c body =>
    have hlast : startsUnit (c :: body ++ rest) = false := by
      simpa [startsUnit, isBody] using hbody c (by simp)
    have htake : Leads 1 s (.takeStart s.head u false :: ms) s.consumed
        (.startFrame (nextHop u) :: .readBody s.head (u ^^^ nextHop u) :: ms) := leads_one hq (.inl rfl) rfl hq
    have hstart := leads_startFrame (s := s.consumed) hq (nextHop u) (.readBody s.head (u ^^^ nextHop u) :: ms) hroom'
    have hroomBody : s.roomFor (1 + (c :: body).length) = true := by
      rwa [forwardBytes, List.length_cons, length_repairLast, Nat.add_comm] at hroom
    have hgo := leads_body (s := s.consumed.emitted [nextHop u]) (u ^^^ nextHop u) ms hq hs'
      ((State.emitted_closedCells _ _).trans hcells') (by simp) hbody hrest
      (State.roomFor_emitted (s := s.consumed) [nextHop u] hroomBody)
    rw [State.emitted_cons, State.sends_nil] at hstart hgo
    rw [hlast, forwardBytes, State.emitted_cons]
    exact (htake.trans (hstart.trans hgo)).mono (by omega)

/-- A data unit from the top of the loop: the start byte one hop on, the body behind it, then the test of `ovf`
(R205 to R207). -/
theorem leads_data_unit {s : State} {u : Byte} {body rest : List Byte} (hq : s.quiet = true) (hs : BufferOk s)
    (hcells : s.closedCells = u :: (body ++ rest)) (hu : isLegalStart u = true) (hidle : u = idleByte → body ≠ [])
    (hbody : ∀ c ∈ body, isBody c = true) (hrest : startsUnit rest = true)
    (hroom : s.roomFor ((forwardBytes u body).length + s.report.length) = true) :
    Leads (4 * body.length + 11) s [.readHead]
      ((s.advanced (body.length + 1)).ovfCleared.emitted (forwardBytes u body ++ s.report)) [] := by
  obtain ⟨htail, hcell, -⟩ := closedCells_cons hs.index hcells
  have hends := unitEnds_eq_startsUnit hs hcells
  have hinner (h : s.cell s.tail = idleByte) : unitEnds s s.head = false := by
    obtain ⟨c, body', rfl⟩ := List.exists_cons_of_ne_nil (hidle (hcell.symm.trans h))
    simpa [hends, startsUnit, isBody] using hbody c (by simp)
  have hread := leads_readUnit_of_start hq (hcell ▸ hu) hinner
  rw [hcell, hends] at hread
  have hforward := leads_takeStart [.testAndClear] hq hs hcells hbody hrest
    (State.roomFor_mono (Nat.le_add_right _ _) hroom)
  have htest := leads_testAndClear (s := (s.advanced (body.length + 1)).emitted (forwardBytes u body)) hq []
    fun hovf => State.roomFor_emitted (s := s.advanced (body.length + 1)) _ (State.roomFor_report hroom hovf)
  rw [← State.emitted_emitted]
  exact ((leads_readHead hq htail).trans (hread.trans (hforward.trans htest))).mono (by omega)

end Sys2Proof.Machine

/-! SUPPORT. POLL against the functions on whole units (R200 to R207): what one call does from the first unit that is
not Idle, and the statements on the relay that rest on it. -/

namespace Sys2Proof.Machine

/-! ## The units of a list of cells -/

theorem unitBody_eq_nil_iff (cs : List Byte) : unitBody cs = [] ↔ startsUnit cs = true := by
  cases cs with
  | nil => simp [unitBody, startsUnit]
  | cons c cs => cases h : isStart c <;> simp [unitBody, startsUnit, List.takeWhile, h]

theorem isBody_of_mem_unitBody {cs : List Byte} {c : Byte} (h : c ∈ unitBody cs) : isBody c = true :=
  List.mem_takeWhile_imp h

/-- Behind the body of a unit the next one starts, or the cells end (R58). -/
theorem exists_rest_of_unitBody (cs : List Byte) : ∃ rest, cs = unitBody cs ++ rest ∧ startsUnit rest = true := by
  refine ⟨cs.dropWhile fun c => !isStart c, List.takeWhile_append_dropWhile.symm, ?_⟩
  cases h : cs.dropWhile fun c => !isStart c with
  | nil => rfl
  | cons c rest => simpa [h, startsUnit] using List.head?_dropWhile_not (fun c => !isStart c) cs

/-- What is left behind the leading Idle units does not begin with one. -/
theorem startsUnit_of_dropIdle {cells cs : List Byte} (h : dropIdle cells = idleByte :: cs) :
    startsUnit cs = false := by
  induction cells with
  | nil => cases h
  | cons u cells ih =>
    rw [dropIdle] at h
    split at h
    · exact ih h
    · rename_i hidle
      cases h
      simpa using hidle

theorem dropIdle_eq_nil {cells : List Byte} (h : ∀ c ∈ cells, c = idleByte) : dropIdle cells = [] := by
  induction cells with
  | nil => rfl
  | cons u cells ih =>
    obtain ⟨rfl, hcells⟩ := List.forall_mem_cons.mp h
    have hstart : startsUnit cells = true := by
      cases cells with
      | nil => rfl
      | cons c cells => rw [hcells c (by simp)]; rfl
    rw [dropIdle, if_pos ⟨rfl, hstart⟩, ih hcells]

/-- The unit at `tail` begins with a legal start byte or is a pseudo unit (R28 item 5, R93). -/
theorem first_cell_of_unit {s : State} (hs : BufferOk s) (hunit : AtUnit s) (hne : s.tail ≠ s.head) :
    isLegalStart (s.cell s.tail) = true ∨ isPseudo (s.cell s.tail) = true := by
  have hstart : isStart (s.cell s.tail) = true := hunit.resolve_left hne
  have hpos : s.span s.tail s.head ≠ 0 := fun e =>
    hne ((State.span_eq_zero hs.index.tail_lt hs.index.head_lt).mp e)
  obtain ⟨-, -, -, -, -, -, hclosed⟩ := hs
  have hvalue : isCellValue (s.cell s.tail) = true := (hclosed 0 (Nat.pos_of_ne_zero hpos)).1
  simpa [isCellValue, isBody, hstart] using hvalue

theorem State.advanced_advanced (s : State) (j k : Nat) : (s.advanced j).advanced k = s.advanced (j + k) := by
  simp [State.advanced, Nat.add_assoc]

/-! ## One call -/

/-- What one call pushes where the leading Idle units are gone: the frame of the next unit and the report behind it,
or, only under `either` and only for a pseudo unit, before it (R202 to R207). -/
def RelaySent (s : State) (units sent : List Byte) : Prop :=
  sent = relayBytes units ++ s.report ∨
    s.cfg.mgmtSoftOrder = .either ∧ (∃ u cs, units = u :: cs ∧ isPseudo u = true) ∧
      sent = s.report ++ relayBytes units

theorem leads_unit {s : State} {units : List Byte} (hq : s.quiet = true) (h : AtUnits s units)
    (hidle : ∀ cs, units = idleByte :: cs → startsUnit cs = false)
    (hroom : s.roomFor ((relayBytes units).length + s.report.length) = true) :
    ∃ sent d, RelaySent s units sent ∧ (s.cfg.mgmtSoftOrder = .after → d = s.draws) ∧
      Leads (4 * units.length + 12) s [.readHead]
        ({ (s.advanced (relayTakes units)).ovfCleared with draws := d }.emitted sent) [] := by
  obtain ⟨hs, hunit, hcells⟩ := h
  cases units with
  | nil =>
    have hempty := (closedCells_eq_nil_iff hs.index).mp hcells
    have hroom' (hovf : s.ovf = true) : s.roomFor (0 + 4) = true := State.roomFor_report hroom hovf
    refine ⟨s.report, s.draws, .inl rfl, fun _ => rfl, ?_⟩
    rw [relayTakes, State.advanced_zero hs.index]
    exact (leads_empty hq hempty hroom').mono (by simp)
  | cons u cs =>
    obtain ⟨hne, hcell, -⟩ := closedCells_cons hs.index hcells
    by_cases hcode : isPseudo u = true
    · simp only [relayBytes, relayTakes, if_pos hcode] at hroom ⊢
      obtain ⟨bs, d, hbs, hd, hleads⟩ := leads_pseudo_unit hq hne (hcell ▸ hcode) hroom
      refine ⟨bs, d, ?_, hd, hleads.mono (by simp)⟩
      rw [PseudoSent, hcell] at hbs
      simpa [RelaySent, relayBytes, hcode] using hbs
    · have hu : isLegalStart u = true := (hcell ▸ first_cell_of_unit hs hunit hne).resolve_right hcode
      obtain ⟨rest, hrest, hstart⟩ := exists_rest_of_unitBody cs
      have hlen : (unitBody cs).length ≤ cs.length := (List.takeWhile_prefix _).length_le
      have hbody (e : u = idleByte) : unitBody cs ≠ [] := fun hnil => by
        subst e
        exact absurd ((unitBody_eq_nil_iff cs).mp hnil) (by simp [hidle cs rfl])
      refine ⟨_, s.draws, .inl rfl, fun _ => rfl, ?_⟩
      simp only [relayBytes, relayTakes, if_neg hcode] at hroom ⊢
      rw [Nat.add_comm 1]
      exact (leads_data_unit hq hs (by rwa [← hrest]) hu hbody (fun _ => isBody_of_mem_unitBody) hstart hroom).mono
        (by simp; omega)

/-- One call from a state that meets the invariant, as the functions on whole units say it. -/
theorem exec_poll_of_inv {s : State} (hinv : Inv s) (hs : Ready s) (hactive : s.encActive = false)
    (hroom : s.roomFor ((relayBytes (dropIdle s.closedCells)).length + s.report.length) = true) :
    ∃ sent d, RelaySent s (dropIdle s.closedCells) sent ∧ (s.cfg.mgmtSoftOrder = .after → d = s.draws) ∧
      exec .poll s = .next ({ (s.advanced (s.closedCells.length - (dropIdle s.closedCells).length +
        relayTakes (dropIdle s.closedCells))).ovfCleared with draws := d }.emitted sent) := by
  obtain ⟨hready, hquiet⟩ := hs
  have hunits : AtUnits s s.closedCells := ⟨hinv.1, (hinv.at_rest hready).2, rfl⟩
  have hsize := State.span_lt (s := s) (b := s.head) hunits.buffer.index.tail_lt
  rw [← length_closedCells] at hsize
  obtain ⟨k, hk, hunits', hdrop⟩ := leads_dropIdle hquiet hunits
  obtain ⟨sent, d, hsent, hd, hunit⟩ := leads_unit (s := s.advanced k) hquiet hunits'
    (fun _ => startsUnit_of_dropIdle) hroom
  have hk' : s.closedCells.length - (dropIdle s.closedCells).length = k := by omega
  rw [State.advanced_advanced] at hunit
  rw [hk']
  exact ⟨sent, d, hsent, hd, exec_poll_of_leads hactive (hdrop.trans hunit) (by omega) hready⟩

/-- Settles O36: `exec_poll_of_inv` with the state written out. -/
theorem pollRefinesWholeUnitRelay : Obligations.PollRefinesWholeUnitRelay := by
  intro s hinv hs hactive cells units frame soft hroom
  obtain ⟨sent, d, hsent, hd, hexec⟩ := exec_poll_of_inv hinv hs hactive (by rwa [List.length_append] at hroom)
  exact ⟨sent, d, hexec, hsent, hd⟩

/-- Settles O34: behind the Idle units nothing is left, and nothing is to be reported. -/
theorem pollConsumesIdleUnits : Obligations.PollConsumesIdleUnits := by
  intro s hinv hs hactive hovf hidle
  obtain ⟨hready, hquiet⟩ := hs
  have hunits : AtUnits s s.closedCells := ⟨hinv.1, (hinv.at_rest hready).2, rfl⟩
  have hindex := hunits.buffer.index
  have hsize := State.span_lt (s := s) (b := s.head) hindex.tail_lt
  obtain ⟨k, hk, hunits', hdrop⟩ := leads_dropIdle hquiet hunits
  rw [dropIdle_eq_nil hidle] at hk hunits'
  obtain rfl : k = s.span s.tail s.head := hk.trans (length_closedCells s)
  have hempty := (closedCells_eq_nil_iff hunits'.buffer.index).mp hunits'.cells
  have hrest := leads_empty (s := s.advanced (s.span s.tail s.head)) hquiet hempty
    fun h => absurd (hovf.symm.trans h) nofun
  have hexec := exec_poll_of_leads hactive (hdrop.trans hrest) (by omega) hready
  rwa [State.report_eq_nil (s := s.advanced _) hovf, State.emitted_nil,
    State.ovfCleared_eq_self (s := s.advanced _) hovf, State.advanced_span hindex] at hexec

/-- POLL of a data unit at `tail` (R205 to R207). -/
theorem exec_poll_of_data_unit {s : State} {u : Byte} {body rest : List Byte} (hb : BufferOk s) (hs : Ready s)
    (hactive : s.encActive = false) (hcells : s.closedCells = u :: (body ++ rest)) (hu : isLegalStart u = true)
    (hidle : u = idleByte → body ≠ []) (hbody : ∀ c ∈ body, isBody c = true) (hrest : startsUnit rest = true)
    (hroom : s.roomFor ((forwardBytes u body).length + s.report.length) = true) :
    exec .poll s = .next ((s.advanced (body.length + 1)).ovfCleared.emitted (forwardBytes u body ++ s.report)) := by
  have hsize := State.span_lt (s := s) (b := s.head) hb.index.tail_lt
  have hlen : s.span s.tail s.head = (body ++ rest).length + 1 := by
    rw [← length_closedCells, hcells, List.length_cons]
  rw [List.length_append] at hlen
  exact exec_poll_of_leads hactive (leads_data_unit hs.2 hb hcells hu hidle hbody hrest hroom) (by omega) hs.1

/-- Only the last body cell takes the delta (R206). -/
theorem repairLast_append_singleton (d c : Byte) (front : List Byte) :
    repairLast d (front ++ [c]) = front ++ [c ^^^ d] := by
  induction front with
  | nil => rfl
  | cons b front ih =>
    cases front with
    | nil => rfl
    | cons b' front => exact congrArg (b :: ·) ih

theorem forwardBytes_append_singleton (u c : Byte) (front : List Byte) :
    forwardBytes u (front ++ [c]) = nextHop u :: (front ++ [c ^^^ (u ^^^ nextHop u)]) := by
  rw [forwardBytes, repairLast_append_singleton]

/-- Settles O35: the frame of the statement is the unit as `forwardBytes` gives it. -/
theorem pollForwardsDataUnit : Obligations.PollForwardsDataUnit := by
  intro s u body rest hinv hs hactive hcells hlow hhigh hbody hrest hidle bs hbs sent hroom
  have hforward : bs = forwardBytes u body := by
    obtain ⟨rfl, rfl⟩ | ⟨front, c, rfl, rfl⟩ := hbs
    · rfl
    · rw [forwardBytes_append_singleton, ← BitVec.xor_assoc]; rfl
  have hsent : sent = forwardBytes u body ++ s.report := congrArg (· ++ s.report) hforward
  have hstart : startsUnit rest = true := by
    cases rest with
    | nil => rfl
    | cons x rest => exact hrest x rfl
  rw [hsent] at hroom ⊢
  rw [exec_poll_of_data_unit hinv.1 hs hactive hcells ((isLegalStart_iff u).mpr ⟨hlow, hhigh⟩) hidle
    (fun x hx => by simp [isBody, isStart, hbody x hx]) hstart (by rwa [List.length_append] at hroom)]
  have hne : forwardBytes u body ++ s.report ≠ [] := by simp [forwardBytes]
  simp [State.emitted, State.sends, State.advanced, State.ovfCleared, hne]

end Sys2Proof.Machine

/-! SUPPORT. The checksum repair law (R210): a start byte one hop on changes the checksum by the start-byte delta, so
the relay of a consistent frame is consistent, and the relay of an encoded frame is the next address's. -/

namespace Sys2Proof.Machine

/-! ## The start byte one hop on -/

/-- Below the reserved address, one hop on is the next address and the same protocol (R205). -/
theorem nextHop_fields {u : Byte} (hu : isStart u = true) (ha : addr u ≠ 7) :
    isStart (nextHop u) = true ∧ addr (nextHop u) = addr u + 1 ∧ proto (nextHop u) = proto u := by
  have hlegal := isLegalStart_of_addr_ne hu ha
  have hlt := u.isLt
  have hadd : (nextHop u).toNat = (u.toNat + 0x10) % 2 ^ 8 := BitVec.toNat_add u 0x10
  rw [isLegalStart_iff] at hlegal
  refine ⟨isStart_nextHop (isLegalStart_of_addr_ne hu ha), BitVec.eq_of_toNat_eq ?_, BitVec.eq_of_toNat_eq ?_⟩
  · rw [BitVec.toNat_add]
    simp only [addr, BitVec.extractLsb'_toNat, Nat.shiftRight_eq_div_pow, hadd]
    change _ = (_ + 1) % _
    omega
  · simp only [proto, BitVec.extractLsb'_toNat, Nat.shiftRight_eq_div_pow, hadd]
    omega

theorem nextHop_startByte {a : BitVec 3} (p : BitVec 4) (ha : a ≠ 7) :
    nextHop (startByte a p) = startByte (a + 1) p := by
  revert ha a p
  decide

/-! ## The checksum -/

theorem isStart_xor (b c : Byte) : isStart (b ^^^ c) = (isStart b ^^ isStart c) := by simp [isStart]

/-- A delta without a top bit passes through the clipping (R210). -/
theorem clip_xor_of_delta (x : Byte) {d : Byte} (hd : isStart d = false) : clip (x ^^^ d) = clip x ^^^ d := by
  ext i hi
  obtain rfl | hi7 : i = 7 ∨ i < 7 := by omega
  · simpa [clip, isStart] using hd.symm
  · interval_cases i <;> simp [clip]

/-- The checksum of what was received, with the start byte one hop on: the delta repairs it (R206, R210). -/
theorem receivedChecksum_nextHop {u : Byte} (f : FrameBody) (hu : isStart u = true) (ha : addr u ≠ 7) :
    receivedChecksum u f ^^^ (u ^^^ nextHop u) = receivedChecksum (nextHop u) f := by
  obtain ⟨hn, -, -⟩ := nextHop_fields hu ha
  have hdelta : isStart (u ^^^ nextHop u) = false := by rw [isStart_xor, hu, hn]; rfl
  rw [receivedChecksum, ← clip_xor_of_delta _ hdelta, receivedChecksum]
  congr 1
  calc u ^^^ xorAll f.payload ^^^ xorAll f.sides ^^^ (u ^^^ nextHop u)
    _ = (u ^^^ u) ^^^ (nextHop u ^^^ xorAll f.payload ^^^ xorAll f.sides) := by ac_rfl
    _ = nextHop u ^^^ xorAll f.payload ^^^ xorAll f.sides := by rw [BitVec.xor_self, BitVec.zero_xor]

/-! ## Frames -/

/-- The bytes of a frame decode where its body splits and its last byte is the checksum (R87). -/
theorem decodeFrame_append_singleton_eq_some_iff {s c : Byte} {front payload : List Byte} {a : BitVec 3}
    {p : BitVec 4} :
    decodeFrame (s :: (front ++ [c])) = some (a, p, payload) ↔
      ∃ f, splitBody front = some f ∧ isStart s = true ∧ (∀ b ∈ front, isStart b = false) ∧
        c = receivedChecksum s f ∧ addr s = a ∧ proto s = p ∧ f.payload = payload := by
  have hclip (f : FrameBody) : isStart (receivedChecksum s f) = false := isStart_clip _
  cases hsplit : splitBody front with
  | none => simp [decodeFrame, hsplit]
  | some f =>
    have hcheck : (isStart s && (front ++ [c]).all (fun b => !isStart b) && c == receivedChecksum s f) = true ↔
        isStart s = true ∧ (∀ b ∈ front, isStart b = false) ∧ c = receivedChecksum s f := by
      have hbody : c = receivedChecksum s f → isStart c = false := fun e => e ▸ hclip f
      simp only [Bool.and_eq_true, List.all_append, List.all_eq_true, List.mem_singleton, forall_eq,
        Bool.not_eq_true', beq_iff_eq]
      tauto
    simp only [decodeFrame, List.getLast?_concat, List.dropLast_concat, hsplit, hcheck, Option.some.injEq,
      exists_eq_left', Option.ite_none_right_eq_some, Prod.mk.injEq, and_assoc]

/-- Settles O54: the body splits as before, and the delta repairs the checksum. -/
theorem relayKeepsFrameConsistent : Obligations.RelayKeepsFrameConsistent := by
  intro u body a p payload h ha
  obtain rfl | ⟨front, c, rfl⟩ := body.eq_nil_or_concat'
  · cases h
  · rw [forwardBytes_append_singleton]
    obtain ⟨f, hsplit, hu, hbody, rfl, rfl, rfl, hpayload⟩ := decodeFrame_append_singleton_eq_some_iff.mp h
    obtain ⟨hn, haddr, hproto⟩ := nextHop_fields hu ha
    exact decodeFrame_append_singleton_eq_some_iff.mpr
      ⟨f, hsplit, hn, hbody, receivedChecksum_nextHop f hu ha, haddr, hproto, hpayload⟩

/-- The relay of an encoded frame is the frame of the next address (R205, R210). -/
theorem forwardBytes_encodeFrame {a : BitVec 3} (p : BitVec 4) (payload : List Byte) (ha : a ≠ 7) :
    forwardBytes (startByte a p) (bodyBytes payload ++ [clip (checksumX (startByte a p) payload)]) =
      encodeFrame (a + 1) p payload := by
  have hrepair := receivedChecksum_nextHop (u := startByte a p)
    ⟨payload, sideBytes (firstRun payload) ++ sideBytes (secondRun payload)⟩ (isStart_startByte a p)
    (by rwa [addr_startByte])
  rw [receivedChecksum_eq, receivedChecksum_eq] at hrepair
  rw [forwardBytes_append_singleton, hrepair, nextHop_startByte p ha, encodeFrame_eq]

end Sys2Proof.Machine

/-! SUPPORT. A frame received into an empty buffer with room for it (R166, R171, R175), and what POLL makes of it. -/

namespace Sys2Proof.Machine

/-! ## What a receive step adds to a region -/

theorem State.cellsFrom_add (s : State) (n k i : Nat) :
    s.cellsFrom (n + k) i = s.cellsFrom n i ++ s.cellsFrom k (i + n) := by
  simp [State.cellsFrom_eq_map, List.range_add, Nat.add_assoc]

/-- The cell behind a region that grows (R166). -/
theorem openCells_bodyAppend {s : State} (c : Byte) (hs : BufferOk s) (hroom : s.inc s.wr ≠ s.head) :
    (bodyAppend c s).openCells = s.openCells ++ [c] := by
  have hindex := hs.index
  obtain ⟨-, -, ⟨hwf, -⟩, -⟩ := hs
  have hspan : s.span s.head (s.inc s.wr) = s.span s.head s.wr + 1 :=
    State.span_inc_right hindex.head_lt hindex.wr_lt hroom
  have hlt := State.span_lt (s := s) (b := s.inc s.wr) hindex.head_lt
  have hold : (bodyAppend c s).cellsFrom (s.span s.head s.wr) s.head = s.openCells :=
    State.cellsFrom_congr fun k hk =>
      State.cell_setCell_of_ne_span c hindex.head_lt hindex.wr_lt (by omega) (Nat.ne_of_lt hk)
  have hnew : (bodyAppend c s).cell (s.head + s.span s.head s.wr) = c :=
    ((bodyAppend c s).cell_add_span 0 hindex.head_lt hindex.wr_lt).trans (State.cell_setCell_same _ _ hwf)
  calc (bodyAppend c s).openCells
    _ = (bodyAppend c s).cellsFrom (s.span s.head s.wr + 1) s.head := congrArg (State.cellsFrom _ · _) hspan
    _ = s.openCells ++ [c] := by rw [State.cellsFrom_add, hold, State.cellsFrom, State.cellsFrom, hnew]

/-- What a receive step closes stands behind what was closed, and starts a unit (R59). -/
theorem ClosedGrows.closedCells {s t : State} (h : ClosedGrows s t) (hs : IndexOk s) (ht : IndexOk t) :
    ∃ rest, t.closedCells = s.closedCells ++ rest ∧ startsUnit rest = true := by
  have hthead : t.head < s.cfg.rbSize := h.cfg ▸ ht.head_lt
  obtain ⟨k, hk⟩ := Nat.exists_eq_add_of_le h.span
  refine ⟨t.cellsFrom k (s.tail + s.span s.tail s.head), ?_, ?_⟩
  · rw [State.closedCells, span_congr h.cfg, h.tail, hk, State.cellsFrom_add, State.closedCells,
      State.cellsFrom_congr h.cell]
  · cases k with
    | zero => rfl
    | succ k =>
      have hne : t.head ≠ s.head := fun e => by rw [e] at hk; omega
      have hcell : t.cell (s.tail + s.span s.tail s.head) = t.cell s.head :=
        State.cell_congr (by rw [h.cfg, State.add_span_mod hs.tail_lt hs.head_lt, Nat.mod_eq_of_lt hs.head_lt])
      rw [State.cellsFrom, startsUnit, hcell]
      exact h.next.resolve_left hne

theorem SamePollSide.ready {s t : State} (h : SamePollSide s t) (hs : Ready s) : Ready t :=
  ⟨h.todo.trans hs.1, by rw [State.quiet, h.agenda]; exact hs.2⟩

theorem SamePollSide.roomFor {s t : State} (h : SamePollSide s t) (n : Nat) : t.roomFor n = s.roomFor n := by
  simp [State.roomFor, h.cfg, h.queued]

theorem SamePollSide.trans {s t u : State} (h : SamePollSide s t) (h' : SamePollSide t u) : SamePollSide s u where
  cfg       := h'.cfg.trans h.cfg
  tail      := h'.tail.trans h.tail
  encActive := h'.encActive.trans h.encActive
  encCsum   := h'.encCsum.trans h.encCsum
  encHb     := h'.encHb.trans h.encHb
  encCnt    := h'.encCnt.trans h.encCnt
  encN      := h'.encN.trans h.encN
  idleCnt   := h'.idleCnt.trans h.idleCnt
  idleDone  := h'.idleDone.trans h.idleDone
  syncRef   := h'.syncRef.trans h.syncRef
  out       := h'.out.trans h.out
  queued    := h'.queued.trans h.queued
  todo      := h'.todo.trans h.todo
  agenda    := h'.agenda.trans h.agenda
  draws     := h'.draws.trans h.draws

/-- Received bytes leave the poll side as it is (R160, R239). -/
theorem execAll_rxOps_samePollSide {bs : List Byte} {s t : State} (h : execAll (rxOps bs) s = .next t) :
    SamePollSide s t := by
  induction bs generalizing s with
  | nil => cases h; constructor <;> rfl
  | cons b bs ih =>
    have hexec : exec (.rx b) s = .next (rxByte b false false s) := rfl
    exact (rxByte_samePollSide b false false s).trans (ih ((execAll_cons hexec).symm.trans h))

/-! ## The bytes of the frame, one after another -/

/-- A frame with two cells of the ring behind it finds room for one more byte (R56). -/
theorem OpenAlone.room {s : State} (h : OpenAlone s) (hlen : s.openCells.length + 1 < s.cfg.rbSize) :
    s.inc s.wr ≠ s.tail := by
  have hindex := h.buffer.index
  have hwr := hindex.wr_lt
  have hhead := hindex.head_lt
  rw [State.openCells, State.cellsFrom_eq_map, List.length_map, List.length_range, State.span_of_lt hhead hwr] at hlen
  rw [← h.empty, State.inc_of_lt hwr]
  split_ifs at * <;> omega

/-- Body bytes that find room are appended (R166). -/
theorem OpenAlone.rx_fits {body : List Byte} {s : State} (h : OpenAlone s) (hbody : ∀ c ∈ body, isBody c = true)
    (hlen : s.openCells.length + body.length + 1 < s.cfg.rbSize) :
    ∃ t, execAll (rxOps body) s = .next t ∧ OpenAlone t ∧ t.openCells = s.openCells ++ body := by
  induction body generalizing s with
  | nil => exact ⟨s, rfl, h, by simp⟩
  | cons c body ih =>
    obtain ⟨hc, hrest⟩ := List.forall_mem_cons.mp hbody
    have hroom : s.inc s.wr ≠ s.tail := h.room (by omega)
    have hexec := exec_rx_body_opened (b := c) (by simpa [isBody] using hc) h.mode
    rw [bodyWhileOpen_of_room hroom] at hexec
    have hcells := openCells_bodyAppend c h.buffer (h.empty ▸ hroom)
    have hlen' : s.openCells.length + (body.length + 1) + 1 < s.cfg.rbSize := hlen
    obtain ⟨t, ht, halone, hopen⟩ := ih (h.append hc hroom).1 hrest
      (by rw [hcells, List.length_append]; simp only [List.length_singleton]; change _ < s.cfg.rbSize; omega)
    exact ⟨t, (execAll_cons hexec).trans ht, halone, by rw [hopen, hcells, List.append_assoc]; rfl⟩

/-- The closing start byte makes the open frame a closed unit, and another unit or none stands behind it (R171). -/
theorem OpenAlone.rx_closing {b : Byte} {s : State} (h : OpenAlone s) (hb : isStart b = true)
    (hroom : s.inc s.wr ≠ s.tail) :
    ∃ t rest, exec (.rx b) s = .next t ∧ BufferOk t ∧ t.closedCells = s.openCells ++ rest ∧
      startsUnit rest = true ∧ t.ovf = false := by
  obtain ⟨hs, hmode, hempty, hovf⟩ := h
  have hclosed := (closeOpen_keepsBuffer hmode hs).1
  obtain ⟨hbuffer, hgrows⟩ := placeStart_keepsBuffer (s := closeOpen s) hb rfl hroom hclosed
  obtain ⟨rest, hcells, hrest⟩ := hgrows.closedCells hclosed.index hbuffer.index
  have hregion : (closeOpen s).closedCells = s.openCells := by
    change (closeOpen s).cellsFrom (s.span s.tail s.wr) s.tail = s.openCells
    rw [← hempty]
    exact State.cellsFrom_congr fun _ _ => rfl
  refine ⟨_, rest, ?_, hbuffer, hregion ▸ hcells, hrest, ?_⟩
  · rw [exec_rx_start_opened hb hmode, startWhileOpen_of_room hroom]
  · unfold placeStart
    split <;> exact hovf

/-- A frame with two cells of the ring to spare, received into an empty buffer and closed by a start byte, is its first
closed unit (R175). -/
theorem rx_frame {u closing : Byte} {body : List Byte} {s : State} (hu : isLegalStart u = true)
    (hbody : ∀ c ∈ body, isBody c = true) (hclosing : isStart closing = true) (hs : BufferOk s)
    (hmode : s.mode = .discard) (hempty : s.head = s.tail) (hovf : s.ovf = false)
    (hlen : body.length + 3 ≤ s.cfg.rbSize) :
    ∃ t rest, execAll (rxOps (u :: body ++ [closing])) s = .next t ∧ BufferOk t ∧
      t.closedCells = u :: (body ++ rest) ∧ startsUnit rest = true ∧ t.ovf = false := by
  have hroom := inc_head_ne_tail_of_empty hs hempty
  have hexec : exec (.rx u) s = .next (openFrame u s) := by
    rw [exec_rx_start_discard (isStart_of_isLegalStart hu) hmode, admitStart_of_room hroom,
      placeStart_of_addr_ne (addr_ne_of_isLegalStart hu)]
  obtain ⟨halone, hone⟩ := OpenAlone.of_start hu hs hempty hovf
  have hopen : (openFrame u s).openCells = [u] :=
    (openCells_of_span_eq_one hone).trans (congrArg ([·]) (cell_setCell_head u hs).1)
  have hsize : (openFrame u s).cfg.rbSize = s.cfg.rbSize := rfl
  obtain ⟨v, hv, halone', hopen'⟩ := halone.rx_fits hbody (by rw [hopen, hsize, List.length_singleton]; omega)
  have hcfg : v.cfg = s.cfg := (execAll_rxOps_samePollSide hv).cfg
  have hlen' : v.openCells.length = 1 + body.length := by
    rw [hopen', hopen, List.length_append, List.length_singleton]
  obtain ⟨t, rest, ht, hbuffer, hcells, hrest, hovf'⟩ :=
    halone'.rx_closing hclosing (halone'.room (by rw [hlen', hcfg]; omega))
  have hops : rxOps (u :: body ++ [closing]) = .rx u :: (rxOps body ++ [.rx closing]) := by simp [rxOps]
  refine ⟨t, rest, ?_, hbuffer, ?_, hrest, hovf'⟩
  · rw [hops, execAll_cons hexec, execAll_append hv, execAll_cons ht]
    rfl
  · rw [hcells, hopen', hopen]
    simp

/-- The body bytes of an encoded frame (R80, R83). -/
theorem isBody_of_mem_frameBody {payload : List Byte} {x b : Byte} (h : payload.length ≤ payloadMax)
    (hb : b ∈ bodyBytes payload ++ [clip x]) : isBody b = true := by
  rw [List.mem_append, List.mem_singleton] at hb
  rcases hb with hb | rfl
  · simp [isBody, isStart_eq_false_of_mem_bodyBytes h hb]
  · simp [isBody]

/-- Settles O43: the frame is the first closed unit, and POLL forwards it. -/
theorem receivedFrameIsRelayedOneHopOn : Obligations.ReceivedFrameIsRelayedOneHopOn := by
  intro a p payload closing s ha hpayload hclosing hinv hs hactive hmode hempty hovf hlen hroom
  have hu : isLegalStart (startByte a p) = true :=
    isLegalStart_of_addr_ne (isStart_startByte a p) (by rwa [addr_startByte])
  have hbody : ∀ c ∈ bodyBytes payload ++ [clip (checksumX (startByte a p) payload)], isBody c = true :=
    fun _ => isBody_of_mem_frameBody hpayload
  rw [encodeFrame_eq] at hlen hroom ⊢
  rw [List.length_cons] at hlen
  obtain ⟨t, rest, ht, hbuffer, hcells, hrest, hovf'⟩ :=
    rx_frame hu hbody hclosing hinv.1 hmode hempty.symm hovf (by omega)
  have hside := execAll_rxOps_samePollSide ht
  have hroom' : t.roomFor ((forwardBytes (startByte a p)
      (bodyBytes payload ++ [clip (checksumX (startByte a p) payload)])).length + t.report.length) = true := by
    rwa [hside.roomFor, State.report_eq_nil hovf', forwardBytes, List.length_cons, length_repairLast]
  have hpoll := exec_poll_of_data_unit hbuffer (hside.ready hs) (hside.encActive.trans hactive) hcells hu (by simp)
    hbody hrest hroom'
  rw [forwardBytes_encodeFrame p payload ha, State.report_eq_nil hovf', List.append_nil] at hpoll
  refine ⟨_, (execAll_append ht).trans (execAll_cons hpoll), ?_, rfl, ?_⟩
  · exact congrArg (· ++ _) hside.out
  · rw [encodeFrame_eq]; rfl

end Sys2Proof.Machine

/-! SUPPORT. An operation in progress ends (R213): each micro-step brings it nearer to its end, by a bound on the
micro-steps left that `runLimit` covers, and an unbounded queue never holds it. -/

namespace Sys2Proof.Machine

/-! ## A bound on the micro-steps left -/

/-- The most micro-steps that this one and those it puts in its place take, with `n` closed cells. -/
def Micro.cost (n : Nat) : Micro → Nat
  | .readHead => 4 * n + 8
  | .readUnit _ => 4 * n + 7
  | .peekIdle _ => 4 * n + 6
  | .skipIdle => 4 * n + 5
  | .takePseudo _ => 10
  | .readBody _ _ => 4 * n
  | .peekStart _ _ | .peekBody _ _ _ => 4 * n - 1
  | .takeStart _ _ _ | .takeBody _ _ _ _ => 4 * n - 2
  | .testAndClear => 5
  | .pushPayload _ => 2
  | .startFrame _ | .push _ | .pushStart _ | .pushSide | .pushCheck | .pushIdle => 1

/-- The most micro-steps that these take, with `n` closed cells. -/
def costOf (n : Nat) (ms : List Micro) : Nat := (ms.map (Micro.cost n)).sum

/-- The most micro-steps that the operation in progress still takes when no event falls inside it. -/
def State.costLeft (s : State) : Nat := costOf (s.span s.tail s.head) s.todo

@[simp] theorem costOf_nil (n : Nat) : costOf n [] = 0 := rfl

@[simp] theorem costOf_cons (n : Nat) (m : Micro) (ms : List Micro) : costOf n (m :: ms) = m.cost n + costOf n ms := by
  simp [costOf]

@[simp] theorem costOf_append (n : Nat) (ms ms' : List Micro) : costOf n (ms ++ ms') = costOf n ms + costOf n ms' := by
  simp [costOf]

theorem costLeft_before (s : State) (ms : List Micro) :
    (s.before ms).costLeft = costOf (s.span s.tail s.head) ms + s.costLeft := costOf_append _ _ _

/-- A cell consumed, and micro-steps put before those left. -/
theorem costLeft_consumed_before (s : State) (ms : List Micro) :
    (s.consumed.before ms).costLeft =
      costOf (s.span (s.inc s.tail) s.head) ms + costOf (s.span (s.inc s.tail) s.head) s.todo :=
  costOf_append _ _ _

@[simp] theorem costOf_emitFixed_mgmtFrameOf (n : Nat) (u : Byte) : costOf n (emitFixed (mgmtFrameOf u)) = 4 := rfl

theorem costOf_of_pushes {n : Nat} {ms : List Micro} (h : afterPushes ms = []) : costOf n ms = ms.length := by
  induction ms with
  | nil => rfl
  | cons m ms ih =>
    cases m with
    | startFrame b => rw [costOf_cons, ih h, List.length_cons, Nat.add_comm]; rfl
    | push b => rw [costOf_cons, ih h, List.length_cons, Nat.add_comm]; rfl
    | _ => cases h

/-! ## Each micro-step lowers the bound -/

/-- The micro-step answers a state whose bound lies below the one before it. -/
def LowersCost (m : Micro) (s : State) : Prop :=
  ∃ t, microStep m s = .next t ∧ t.costLeft < m.cost (s.span s.tail s.head) + s.costLeft

section
variable {s : State} (hs : BufferOk s)
include hs

theorem span_of_tail_ne_head (hne : s.tail ≠ s.head) :
    s.span s.tail s.head = s.span (s.inc s.tail) s.head + 1 :=
  State.span_inc_left hs.index.tail_lt hs.index.head_lt hne

theorem costLeft_forwardData (h : Nat) (u : Byte) (hne : s.tail ≠ s.head) :
    (forwardData h u s).costLeft ≤ 4 * s.span s.tail s.head + 4 + s.costLeft := by
  have hspan := span_of_tail_ne_head hs hne
  unfold forwardData
  split <;> simp only [costLeft_before, costOf_cons, costOf_nil, Micro.cost] <;> omega

theorem lowersCost_readUnit {h : Nat} (hne : s.tail ≠ s.head) (hunit : AtUnit s) : LowersCost (.readUnit h) s := by
  have hspan := span_of_tail_ne_head hs hne
  have hfirst := first_cell_of_unit hs hunit hne
  change ∃ t, dispatchUnit h (s.cell s.tail) s = .next t ∧ _
  unfold dispatchUnit
  split
  · split
    · exact ⟨_, rfl, by simp [costLeft_before, Micro.cost]⟩
    · exact ⟨_, rfl, by simp [costLeft_before, Micro.cost]⟩
  · split
    · refine ⟨_, rfl, ?_⟩
      simp only [costLeft_before, costOf_cons, costOf_nil, Micro.cost]
      omega
    · rename_i hcode
      rw [if_pos (hfirst.resolve_right hcode)]
      have hforward := costLeft_forwardData hs h (s.cell s.tail) hne
      refine ⟨_, rfl, ?_⟩
      simp only [Micro.cost]
      omega

theorem lowersCost_peekIdle (h : Nat) (hne : s.tail ≠ s.head) : LowersCost (.peekIdle h) s := by
  refine ⟨_, rfl, ?_⟩
  unfold microPeekIdle
  split
  · simp [costLeft_before, Micro.cost]
  · have hforward := costLeft_forwardData hs h idleByte hne
    simp only [Micro.cost]
    omega

theorem lowersCost_of_relayPos {m : Micro} {rest : List Micro} (hr : s.todo = rest)
    (hpos : RelayPos s (m :: rest)) : LowersCost m s := by
  have hindex := hs.index
  have hleft : s.costLeft = costOf (s.span s.tail s.head) rest := congrArg (costOf _) hr
  cases hpos with
  | startFrame b => exact ⟨_, rfl, Nat.lt_add_of_pos_left Nat.one_pos⟩
  | push b => exact ⟨_, rfl, Nat.lt_add_of_pos_left Nat.one_pos⟩
  | readHead =>
    refine ⟨_, rfl, ?_⟩
    unfold microReadHead
    split <;> simp [costLeft_before, Micro.cost]
  | readUnit hsnap hne hunit => exact lowersCost_readUnit hs (hsnap.tail_ne_head hindex hne) hunit
  | peekIdle hat => exact lowersCost_peekIdle hs _ (hat.tail_ne_head hindex)
  | skipIdle hat =>
    have hspan := span_of_tail_ne_head hs (hat.tail_ne_head hindex)
    refine ⟨_, rfl, ?_⟩
    simp only [microSkipIdle, costLeft_consumed_before, hleft, hr, costOf_cons, costOf_nil, Micro.cost]
    omega
  | @takePseudo u hat =>
    refine ⟨_, rfl, ?_⟩
    obtain ⟨d, -, e | ⟨-, e⟩⟩ := microTakePseudo_cases u s <;> rw [e]
    · refine (costLeft_consumed_before s _).trans_lt ?_
      simp only [hr, costOf_append, costOf_cons, costOf_nil, costOf_emitFixed_mgmtFrameOf, Micro.cost]
      omega
    · refine (costLeft_consumed_before s _).trans_lt ?_
      simp only [hr, costOf_cons, costOf_nil, costOf_emitFixed_mgmtFrameOf, Micro.cost]
      omega
  | peekStart hat hstart hnext =>
    have hspan := span_of_tail_ne_head hs (hat.tail_ne_head hindex)
    refine ⟨_, rfl, ?_⟩
    simp only [microPeekStart, costLeft_before, costOf_cons, costOf_nil, Micro.cost]
    omega
  | takeStart hat =>
    have hspan := span_of_tail_ne_head hs (hat.tail_ne_head hindex)
    refine ⟨_, rfl, ?_⟩
    unfold microTakeStart
    split <;> simp only [costLeft_consumed_before, hleft, hr, costOf_cons, costOf_nil, Micro.cost] <;> omega
  | readBody hsnap hne =>
    have hspan := span_of_tail_ne_head hs (hsnap.tail_ne_head hindex hne)
    refine ⟨_, rfl, ?_⟩
    unfold microReadBody
    split <;> simp only [costLeft_before, costOf_cons, costOf_nil, Micro.cost] <;> omega
  | peekBody hat =>
    have hspan := span_of_tail_ne_head hs (hat.tail_ne_head hindex)
    refine ⟨_, rfl, ?_⟩
    simp only [microPeekBody, costLeft_before, costOf_cons, costOf_nil, Micro.cost]
    omega
  | takeBody hat =>
    have hspan := span_of_tail_ne_head hs (hat.tail_ne_head hindex)
    refine ⟨_, rfl, ?_⟩
    unfold microTakeBody
    split <;> simp only [costLeft_consumed_before, hleft, hr, costOf_cons, costOf_nil, Micro.cost] <;> omega
  | testAndClear =>
    refine ⟨_, rfl, ?_⟩
    obtain ⟨-, e⟩ | ⟨-, e⟩ := microTestAndClear_cases s <;> rw [e]
    · rw [costLeft_before]
      exact Nat.add_lt_add_right (by decide : 4 < 5) s.costLeft
    · simp [Micro.cost]

theorem lowersCost_of_todoPos {m : Micro} {rest : List Micro} (hr : s.todo = rest)
    (hpos : TodoPos s (m :: rest)) : LowersCost m s := by
  cases hpos with
  | relay _ _ _ hrelay => exact lowersCost_of_relayPos hs hr hrelay
  | pushPayload =>
    refine ⟨_, rfl, ?_⟩
    unfold microPushPayload
    split
    · rw [costLeft_before]
      exact Nat.add_lt_add_right (by decide : 1 < 2) s.costLeft
    · exact Nat.lt_add_of_pos_left (by decide : 0 < 2)
  | pushStart | pushSideOfRun | pushSideOfEnd | pushCheck | pushIdle =>
    exact ⟨_, rfl, Nat.lt_add_of_pos_left Nat.one_pos⟩

/-- The bound of a relay call, from its position. -/
theorem costOf_le_of_relayPos {ms : List Micro} (hpos : RelayPos s ms) :
    costOf (s.span s.tail s.head) ms ≤ 4 * s.span s.tail s.head + 7 + ms.length := by
  have hindex := hs.index
  induction hpos with
  | startFrame b _ ih | push b _ ih => simp only [costOf_cons, Micro.cost, List.length_cons]; omega
  | takePseudo hat =>
    have hspan := span_of_tail_ne_head hs (hat.tail_ne_head hindex)
    simp only [costOf_cons, costOf_nil, Micro.cost, List.length_cons, List.length_nil]
    omega
  | testAndClear _ hlen hpushes =>
    rw [costOf_cons, costOf_of_pushes hpushes]
    simp only [Micro.cost, List.length_cons]
    omega
  | _ =>
    simp only [costOf_cons, costOf_nil, Micro.cost, List.length_cons, List.length_nil]
    omega

end

/-- One call of `resume` takes all of an operation inside which no event falls (log 5). -/
theorem costLeft_le_runLimit {s : State} (hinv : Inv s) : s.costLeft ≤ runLimit s.cfg := by
  obtain ⟨hs, -, -, hpos⟩ := (inv_iff s).mp hinv
  have hsize := State.span_lt (s := s) (b := s.head) hs.index.tail_lt
  unfold State.costLeft runLimit
  generalize s.todo = ms at hpos
  cases hpos with
  | relay _ _ hlen hrelay =>
    have hcost := costOf_le_of_relayPos hs hrelay
    omega
  | _ => simp only [costOf_cons, costOf_nil, Micro.cost]; omega

/-! ## Running to the end -/

/-- Without a bound on the queue only an event holds an operation back (R61, R73). -/
theorem todo_eq_nil_or_due {s : State} (hqueue : s.cfg.outqSize = none) (hr : s.running = false) :
    s.todo = [] ∨ s.due = true := by
  have hheld : s.held = false := by
    unfold State.held State.roomFor
    split <;> simp [hqueue]
  rcases htodo : s.todo with _ | ⟨m, ms⟩
  · exact .inl rfl
  · exact .inr (by simpa [State.running, htodo, hheld] using hr)

/-- The next micro-step of an operation in progress is taken without a fault and lowers the bound. -/
theorem exists_microStep_of_inv {s : State} {m : Micro} {rest : List Micro} (hinv : Inv s) (hto : s.todo = m :: rest) :
    ∃ t, microStep m { s with todo := rest } = .next t ∧ t.costLeft < s.costLeft := by
  obtain ⟨hs, -, -, hpos⟩ := (inv_iff s).mp hinv
  rw [hto] at hpos
  have hpos' : TodoPos { s with todo := rest } (m :: rest) :=
    hpos.grows hs hs.index (.of_eq rfl rfl rfl rfl) ⟨rfl, rfl, rfl, rfl⟩
  obtain ⟨t, ht, hlt⟩ := lowersCost_of_todoPos (s := { s with todo := rest }) hs rfl hpos'
  have hcost : s.costLeft = m.cost (s.span s.tail s.head) + costOf (s.span s.tail s.head) rest := by
    rw [State.costLeft, hto, costOf_cons]
  exact ⟨t, ht, hcost ▸ hlt⟩

theorem costLeft_ticked (s : State) : s.ticked.costLeft = s.costLeft := by
  obtain ⟨es, hes⟩ := s.ticked_eq
  rw [hes]
  rfl

/-- Within the bound an operation runs until it has ended or an event falls. -/
theorem exists_run_of_costLeft_le {n : Nat} {s : State} (hinv : Inv s) (hcost : s.costLeft ≤ n) :
    ∃ t, run n s = .next t ∧ t.running = false := by
  induction n generalizing s with
  | zero =>
    refine ⟨s, rfl, ?_⟩
    cases hto : s.todo with
    | nil => exact State.running_eq_false_of_todo hto
    | cons m rest =>
      obtain ⟨t, -, hlt⟩ := exists_microStep_of_inv hinv hto
      omega
  | succ n ih =>
    cases hr : s.running with
    | false => exact ⟨s, run_stops hr, hr⟩
    | true =>
      cases hto : s.todo with
      | nil => exact absurd (State.running_eq_false_of_todo hto) (by simp [hr])
      | cons m rest =>
        obtain ⟨t, ht, hlt⟩ := exists_microStep_of_inv hinv hto
        rw [run_succ hr hto ht]
        exact ih (ticked_inv (microStep_inv hinv hto (roomFor_of_running hr hto) ht))
          (by rw [costLeft_ticked]; omega)

/-! ## The schedule -/

/-- The poll context's micro-steps leave the schedule alone. -/
theorem microStep_agenda {m : Micro} {s t : State} (h : microStep m s = .next t) : t.agenda = s.agenda := by
  by_cases htest : m = .testAndClear
  · subst htest
    cases h
    obtain ⟨-, e⟩ | ⟨-, e⟩ := microTestAndClear_cases s
    · rw [e]; rfl
    · rw [e]
  · cases hp : m.pushes with
    | false =>
      obtain ⟨ms, tl, d, rfl⟩ := microStep_eq_of_not_pushes hp htest h
      rfl
    | true =>
      cases m with
      | pushPayload b =>
        cases h
        unfold microPushPayload
        split <;> rfl
      | startFrame | push | pushStart | pushSide | pushCheck | pushIdle => cases h; rfl
      | _ => cases hp

/-- A passed micro-step keeps the events of the schedule. -/
theorem ticked_agenda (s : State) :
    s.ticked.agenda.length = s.agenda.length ∧ onlyAsync s.ticked.agenda = onlyAsync s.agenda := by
  unfold State.ticked
  split <;> simp_all [onlyAsync]

/-- The block with an unbounded queue, and `n` arriving bytes and drainer steps to come. -/
structure AsyncLeft (s : State) (n : Nat) : Prop where
  inv    : Inv s
  queue  : s.cfg.outqSize = none
  async  : onlyAsync s.agenda = true
  length : s.agenda.length = n

theorem run_asyncLeft {k n : Nat} {s t : State} (h : AsyncLeft s n) (hrun : run k s = .next t) : AsyncLeft t n := by
  refine run_induction (P := fun s => AsyncLeft s n) (fun s t m rest h hr hto hm => ?_) h hrun
  obtain ⟨hinv, hqueue, hasync, hlength⟩ := h
  have hinv' := ticked_inv (microStep_inv hinv hto (roomFor_of_running hr hto) hm)
  have hcfg : t.ticked.cfg = s.cfg := (pollFrame_ticked t).cfg.trans (microStep_pollFrame hm).cfg
  have hagenda : t.agenda = s.agenda := microStep_agenda (s := { s with todo := rest }) hm
  obtain ⟨hlength', hasync'⟩ := ticked_agenda t
  rw [hagenda] at hlength' hasync'
  exact ⟨hinv', hcfg ▸ hqueue, hasync'.trans hasync, hlength'.trans hlength⟩

/-! ## Steps -/

/-- A step that goes on with the operation in progress takes it to its end or to the next event. -/
theorem AsyncLeft.step_running {n : Nat} {s : State} (h : AsyncLeft s n) (hr : s.running = true) :
    ∃ t, step s = .next t ∧ AsyncLeft t n ∧ t.running = false := by
  obtain ⟨t, ht, hstop⟩ := exists_run_of_costLeft_le h.inv (costLeft_le_runLimit h.inv)
  exact ⟨t, (if_pos hr).trans ht, run_asyncLeft h ht, hstop⟩

/-- Every other step takes the next event. -/
theorem AsyncLeft.step_event {n : Nat} {s : State} (h : AsyncLeft s (n + 1)) (hr : s.running = false) :
    ∃ t, step s = .next t ∧ AsyncLeft t n := by
  obtain ⟨hinv, hqueue, hasync, hlength⟩ := h
  rcases ha : s.agenda with _ | ⟨e, es⟩
  · simp [ha] at hlength
  · rw [ha] at hasync hlength
    have hlength' : es.length = n := by simpa using hlength
    cases e with
    | issue c => cases hasync
    | arrive k b fe ovr =>
      have hstep := step_of_arrive hr ha
      have hside := rxByte_samePollSide b fe ovr { s with agenda := es }
      exact ⟨_, hstep, stepKeepsInvariant s _ hinv hstep, by rw [hside.cfg]; exact hqueue,
        by rw [hside.agenda]; exact hasync, by rw [hside.agenda]; exact hlength'⟩
    | drain k =>
      have hstep := step_of_drain hr ha
      exact ⟨_, hstep, stepKeepsInvariant s _ hinv hstep, hqueue, hasync, hlength'⟩

theorem AsyncLeft.ended {s : State} (h : AsyncLeft s 0) (hr : s.running = false) : Ended s := by
  have ha : s.agenda = [] := List.length_eq_zero_iff.mp h.length
  refine ⟨(todo_eq_nil_or_due h.queue hr).resolve_right ?_, ha⟩
  simp [State.due, ha]

theorem core_run_succ {s t : State} (h : step s = .next t) (k : Nat) :
    Host.Core.run Sys2Proof.core (k + 1) s = Host.Core.run Sys2Proof.core k t := by
  have hstep : Sys2Proof.core.step s = .next t := h
  simp only [Host.Core.run, hstep]

/-- A run that has ended stays as it is. -/
theorem core_run_of_ended {s : State} (h : Ended s) (k : Nat) : Host.Core.run Sys2Proof.core k s = .next s := by
  induction k with
  | zero => rfl
  | succ k ih =>
    exact (core_run_succ (step_of_agenda_nil (State.running_eq_false_of_todo h.1) h.2) k).trans ih

/-- At most one step brings the operation in progress to its end or to the next event. -/
theorem AsyncLeft.exists_stop {n : Nat} {s : State} (h : AsyncLeft s n) :
    ∃ t j, j ≤ 1 ∧ (∀ k, Host.Core.run Sys2Proof.core (k + j) s = Host.Core.run Sys2Proof.core k t) ∧
      AsyncLeft t n ∧ t.running = false := by
  cases hr : s.running with
  | false => exact ⟨s, 0, Nat.zero_le 1, fun _ => rfl, h, hr⟩
  | true =>
    obtain ⟨t, hstep, ht, hstop⟩ := h.step_running hr
    exact ⟨t, 1, Nat.le_refl 1, core_run_succ hstep, ht, hstop⟩

/-- Two steps for each event, one that goes on with the operation and one that takes the event, and one more. -/
theorem AsyncLeft.ends {n k : Nat} {s : State} (h : AsyncLeft s n) (hk : 2 * n + 1 ≤ k) :
    ∃ t, Host.Core.run Sys2Proof.core k s = .next t ∧ Ended t := by
  induction n generalizing s k with
  | zero =>
    obtain ⟨t, j, hj, hrun, ht, hstop⟩ := h.exists_stop
    obtain ⟨k', rfl⟩ := Nat.exists_eq_add_of_le' (hj.trans hk)
    have hended := ht.ended hstop
    exact ⟨t, (hrun k').trans (core_run_of_ended hended k'), hended⟩
  | succ n ih =>
    obtain ⟨t, j, hj, hrun, ht, hstop⟩ := h.exists_stop
    obtain ⟨u, hstep, hu⟩ := ht.step_event hstop
    obtain ⟨k', rfl⟩ : ∃ k', k = k' + 1 + j := ⟨k - j - 1, by omega⟩
    obtain ⟨v, hv, hended⟩ := ih hu (k := k') (by omega)
    exact ⟨v, (hrun (k' + 1)).trans ((core_run_succ hstep k').trans hv), hended⟩

/-- Settles O39: two steps for each event of the schedule, and one for what then is left of the operation. -/
theorem operationInProgressEnds : Obligations.OperationInProgressEnds :=
  fun _ hinv hqueue hasync => AsyncLeft.ends ⟨hinv, hqueue, hasync, rfl⟩ (Nat.le_refl _)

end Sys2Proof.Machine

/-! SUPPORT. A byte that arrives where the operation in progress does not go on (R61, R239). -/

namespace Sys2Proof.Machine

/-- Settles O51: in each of the three places the operation in progress does not go on, and a receive step leaves it
where it was. -/
theorem arrivingByteRunsBetweenMicroSteps : Obligations.ArrivingByteRunsBetweenMicroSteps := by
  intro s n b fe ovr es ha hplace
  have hr : s.running = false := by
    rcases hplace with rfl | ht | hheld
    · exact State.running_eq_false_of_due (by simp [State.due, ha])
    · exact State.running_eq_false_of_todo ht
    · exact State.running_eq_false_of_held hheld
  have hstep := step_of_arrive hr ha
  exact ⟨hstep.trans (exec_rxInstr b fe ovr _).symm, _, hstep, (rxByte_samePollSide b fe ovr _).todo⟩

end Sys2Proof.Machine

/-! SUPPORT. Where a step can fault (R208, R234): from a state that meets the invariant an operation, once begun, takes
every micro-step without a fault, so what is left are the contracts that an operation tests before its first. -/

namespace Sys2Proof.Machine

/-! ## Inside an operation -/

/-- An operation in progress goes on without a fault. -/
theorem resume_ne_fault {s : State} (hinv : Inv s) (f : Fault) : resume s ≠ .fault f := by
  obtain ⟨t, ht, -⟩ := exists_run_of_costLeft_le hinv (costLeft_le_runLimit hinv)
  rw [resume, ht]
  nofun

/-- An operation begun in a position of the invariant has no fault. -/
theorem begin_ne_fault {s : State} {ms : List Micro} (hinv : Inv s) (hpos : TodoPos s ms) (f : Fault) :
    begin ms s ≠ .fault f := by
  obtain ⟨hb, henc, hout, -⟩ := hinv
  exact resume_ne_fault (s := { s with todo := ms }) ⟨hb, henc, hout, hpos.todoOk⟩ f

/-! ## Every operation -/

section
variable {s : State} {f : Fault} (hinv : Inv s) (ht : s.todo = [])
include hinv ht

theorem execStart_ne_fault (p : BitVec 4) : execStart p s ≠ .fault f := by
  obtain ⟨hrest, hunit⟩ := hinv.at_rest ht
  exact begin_ne_fault hinv (.pushStart hrest hunit (isLegalStart_startByte_local p)) f

/-- SEND faults without an open frame, and on a 13th payload byte (R122). -/
theorem execSend_fault {b : Byte} (h : execSend b s = .fault f) :
    s.encActive = false ∧ f = .encNotStarted .send ∨
      s.encActive = true ∧ s.encN = payloadMax ∧ f = .encPayloadTooLong := by
  obtain ⟨hrest, hunit⟩ := hinv.at_rest ht
  unfold execSend at h
  split_ifs at h with hactive hfull
  · cases h; exact .inl ⟨hactive, rfl⟩
  · cases h; exact .inr ⟨by simpa using hactive, hfull, rfl⟩
  · have ⟨_, ⟨_, _, hn⟩, _⟩ := hinv
    exact absurd h (begin_ne_fault hinv
      (.pushPayload hrest hunit (by simpa using hactive) (Nat.lt_of_le_of_ne hn hfull)) f)

/-- END faults without an open frame (R123). -/
theorem execEndFrame_fault (h : execEndFrame s = .fault f) :
    s.encActive = false ∧ f = .encNotStarted .endFrame := by
  obtain ⟨hrest, hunit⟩ := hinv.at_rest ht
  cases hactive : s.encActive with
  | false =>
    rw [execEndFrame, if_pos hactive] at h
    cases h; exact ⟨rfl, rfl⟩
  | true =>
    rw [execEndFrame_eq_begin hactive] at h
    split_ifs at h with hcnt
    · exact absurd h (begin_ne_fault hinv (.pushSideOfEnd hrest hunit hactive hcnt) f)
    · exact absurd h (begin_ne_fault hinv (.pushCheck hunit hactive (not_not.mp hcnt)) f)

/-- POLL faults inside a local frame only: what the buffer holds is what a rule wrote (R200, R208). -/
theorem execPoll_fault (h : execPoll s = .fault f) : s.encActive = true ∧ f = .relayDuringFrame := by
  obtain ⟨hrest, hunit⟩ := hinv.at_rest ht
  unfold execPoll at h
  split_ifs at h with hactive
  · cases h; exact ⟨hactive, rfl⟩
  · exact absurd h (begin_ne_fault hinv
      (.relay hrest (by simpa using hactive) (by simp) (.readHead hunit)) f)

theorem execTick_ne_fault (idle : Bool) : execTick idle s ≠ .fault f := by
  obtain ⟨hrest, hunit⟩ := hinv.at_rest ht
  unfold execTick
  split_ifs with hdue
  · obtain ⟨-, -, -, hactive⟩ := (idleDue_idleTicked_iff idle s).mp hdue
    exact begin_ne_fault (s := s.idleTicked) hinv (.pushIdle hrest hunit hactive) f
  · nofun

end

/-- SYNC faults inside a local frame only (R142). -/
theorem execSync_fault {now : Nat} {s : State} {f : Fault} (h : execSync now s = .fault f) :
    s.encActive = true ∧ f = .pauseDuringFrame := by
  unfold execSync at h
  split_ifs at h with hactive
  cases h; exact ⟨hactive, rfl⟩

/-! ## Every step -/

/-- A step that faults goes on with the operation in progress, or runs the next command. -/
theorem step_fault_cases {s : State} {f : Fault} (h : step s = .fault f) :
    resume s = .fault f ∨
      ∃ c es i, s.todo = [] ∧ s.agenda = .issue c :: es ∧ decode c = .ok i ∧
        exec i { s with agenda := es } = .fault f := by
  cases hr : s.running with
  | true => exact .inl (by simpa [step, hr] using h)
  | false =>
    rcases ha : s.agenda with _ | ⟨c | ⟨n, b, fe, ovr⟩ | n, es⟩
    · rw [step_of_agenda_nil hr ha] at h; cases h
    · by_cases ht : s.todo = []
      · cases hd : decode c with
        | ok i => exact .inr ⟨c, es, i, ht, rfl, hd, step_of_issue ht ha hd ▸ h⟩
        | error e => rw [step_of_issue_error ht ha hd] at h; cases h
      · rw [step_of_issue_waiting hr ht ha] at h; cases h
    · rw [step_of_arrive hr ha] at h; cases h
    · rw [step_of_drain hr ha] at h; cases h

/-- Settles O47: the fault is the issued command's, and each operation's own. -/
theorem onlyContractFaults : Obligations.OnlyContractFaults := by
  intro s f hinv h
  obtain hresume | ⟨c, es, i, ht, ha, hd, hexec⟩ := step_fault_cases h
  · exact absurd hresume (resume_ne_fault hinv f)
  refine ⟨c, es, i, ht, ha, hd, ?_⟩
  have hinv' : Inv { s with agenda := es } := inv_withAgenda es hinv
  cases i with
  | start p => exact absurd hexec (execStart_ne_fault hinv' ht p)
  | send b =>
    obtain ⟨hactive, hf⟩ | ⟨hactive, hn, hf⟩ := execSend_fault hinv' ht hexec
    · exact .inl ⟨b, rfl, hactive, hf⟩
    · exact .inr (.inl ⟨b, rfl, hactive, hn, hf⟩)
  | endFrame =>
    have hbroken := execEndFrame_fault hinv' ht hexec
    exact .inr (.inr (.inl ⟨rfl, hbroken⟩))
  | poll =>
    have hbroken := execPoll_fault hinv' ht hexec
    exact .inr (.inr (.inr (.inl ⟨rfl, hbroken⟩)))
  | tick idle => exact absurd hexec (execTick_ne_fault hinv' ht idle)
  | sync now =>
    have hbroken := execSync_fault hexec
    exact .inr (.inr (.inr (.inr ⟨now, rfl, hbroken⟩)))
  | rx b | rxOvr b | rxFe b | rxFeOvr b | reset => cases hexec

end Sys2Proof.Machine

/-! SUPPORT. Boards in a chain (R245, R246): a board that has just been reset relays a frame one hop on, and at the
reserved address puts the Chain-Too-Long frame in its place. -/

namespace Sys2Proof.Machine

/-! ## A frame of the reserved address -/

/-- Two cells on is another cell: R6 asks for three. -/
theorem State.inc_inc_ne {s : State} {i : Nat} (hsize : 3 ≤ s.cfg.rbSize) (hi : i < s.cfg.rbSize) :
    s.inc (s.inc i) ≠ i := by
  rw [State.inc_of_lt (State.inc_lt hsize i), State.inc_of_lt hi]
  split_ifs <;> omega

/-- A frame of the reserved address, received into an empty buffer and closed by a legal start byte, leaves the
Chain-Too-Long code as the first closed unit (R163, R169, R170). -/
theorem rx_reserved_frame {u closing : Byte} {body : List Byte} {s : State} (hu : isStart u = true)
    (haddr : addr u = reservedAddr) (hbody : ∀ c ∈ body, isBody c = true) (hclosing : isLegalStart closing = true)
    (hs : BufferOk s) (hmode : s.mode = .discard) (hempty : s.head = s.tail) (hovf : s.ovf = false) :
    ∃ t, execAll (rxOps (u :: body ++ [closing])) s = .next t ∧
      t.tail ≠ t.head ∧ t.cell t.tail = rbCtl ∧ t.ovf = false := by
  have hroom := inc_head_ne_tail_of_empty hs hempty
  have hfirst : exec (.rx u) s = .next (publishCode rbCtl s) := by
    rw [exec_rx_start_discard hu hmode, admitStart_of_room hroom, placeStart_of_reserved haddr]
  have hfree : (publishCode rbCtl s).inc (publishCode rbCtl s).head ≠ (publishCode rbCtl s).tail :=
    hempty ▸ State.inc_inc_ne hs.size hs.index.head_lt
  have hlast : exec (.rx closing) (publishCode rbCtl s) = .next (openFrame closing (publishCode rbCtl s)) := by
    rw [exec_rx_start_discard (s := publishCode rbCtl s) (isStart_of_isLegalStart hclosing) hmode,
      admitStart_of_room hfree, placeStart_of_addr_ne (addr_ne_of_isLegalStart hclosing)]
  have hbodies : execAll (rxOps body) (publishCode rbCtl s) = .next (publishCode rbCtl s) :=
    execAll_rx_body_discard hbody hmode
  have hcode : (publishCode rbCtl s).cell s.tail = rbCtl := hempty ▸ (cell_setCell_head rbCtl hs).1
  have hbuffer := (publishCode_keepsBuffer (code := rbCtl) rfl hmode hroom hs).1
  have hspan : 0 < s.span s.tail (s.inc s.head) := by
    rw [hempty, State.span_inc_self hs.index.tail_lt hs.size]
    decide
  have hops : rxOps (u :: body ++ [closing]) = .rx u :: (rxOps body ++ [.rx closing]) := by simp [rxOps]
  refine ⟨openFrame closing (publishCode rbCtl s), ?_, fun e => hroom e.symm, ?_, hovf⟩
  · rw [hops, execAll_cons hfirst, execAll_append hbodies, execAll_cons hlast]
    rfl
  · exact ((openFrame_keepsBuffer hclosing hfree hbuffer).2.cell 0 hspan).trans hcode

/-! ## One board -/

theorem streamBytes_symbols (bs : List Byte) : streamBytes (symbols bs) = bs := by
  induction bs with
  | nil => rfl
  | cons b bs ih => exact congrArg (b :: ·) ih

theorem State.roomFor_of_unbounded {s : State} (h : s.cfg.outqSize = none) (n : Nat) : s.roomFor n = true := by
  simp [State.roomFor, h]

/-- What the board pushes is read off the run of its operations. -/
theorem boardOutput_eq {c : Config} {m : Memory} {bytes sent : List Byte} {t : State}
    (h : execAll (rxOps (bytes ++ [idleByte]) ++ [.poll]) (State.resetWith c m) = .next t)
    (hout : t.out = symbols sent) : boardOutput c m bytes = sent := by
  rw [boardOutput, h]
  exact (congrArg streamBytes hout).trans (streamBytes_symbols sent)

section
variable {c : Config} {m : Memory} {payload : List Byte} (p : BitVec 4) (hc : c.Legal) (hqueue : c.outqSize = none)
  (hm : m.fits c) (hpayload : payload.length ≤ payloadMax)
include hc hqueue hm hpayload

/-- Below the reserved address the board relays the frame one hop on (R210). -/
theorem boardOutput_encodeFrame {a : BitVec 3} (ha : a ≠ 7) (hsize : 18 ≤ c.rbSize) :
    boardOutput c m (encodeFrame a p payload) = encodeFrame (a + 1) p payload := by
  have hlen : (encodeFrame a p payload).length ≤ 16 := (wireFrameLength a p payload hpayload).2
  have hfits : (encodeFrame a p payload).length + 2 ≤ c.rbSize := by omega
  obtain ⟨t, ht, hout, -⟩ := receivedFrameIsRelayedOneHopOn a p payload idleByte (State.resetWith c m) ha hpayload
    rfl (resetStateMeetsInvariant c m hc hm) ⟨rfl, rfl⟩ rfl rfl rfl rfl hfits (State.roomFor_of_unbounded hqueue _)
  exact boardOutput_eq ht hout

/-- At the reserved address the board sends the Chain-Too-Long frame in its place (R204, R212). -/
theorem boardOutput_encodeFrame_reserved :
    boardOutput c m (encodeFrame reservedAddr p payload) = mgmtFrameOf rbCtl := by
  obtain ⟨t, ht, hne, hcell, hovf⟩ := rx_reserved_frame (closing := idleByte) (s := State.resetWith c m)
    (isStart_startByte reservedAddr p) (addr_startByte reservedAddr p) (fun _ => isBody_of_mem_frameBody hpayload) rfl
    (resetStateMeetsInvariant c m hc hm).1 rfl rfl rfl
  have hside := execAll_rxOps_samePollSide ht
  have hroom : t.roomFor (4 + t.report.length) = true := State.roomFor_of_unbounded (hside.cfg ▸ hqueue) _
  obtain ⟨sent, d, hsent, -, hpoll⟩ := exec_poll_of_pseudo (hside.ready ⟨rfl, rfl⟩) hside.encActive hne
    (by rw [hcell]; rfl) hroom
  have hsent' : sent = mgmtFrameOf rbCtl := by
    rw [PseudoSent, hcell, State.report_eq_nil hovf, List.append_nil, List.nil_append] at hsent
    exact hsent.elim id And.right
  rw [encodeFrame_eq, ← hsent']
  exact boardOutput_eq ((execAll_append ht).trans (execAll_cons hpoll)) (congrArg (· ++ symbols sent) hside.out)

end

/-! ## The chain -/

/-- Settles O45: induction on the boards below the reserved address, and the eighth board finds it. -/
theorem frameCrossesSevenBoards : Obligations.FrameCrossesSevenBoards := by
  intro c ms p payload hc hsize hqueue hms hpayload
  have hchain : ∀ k, k ≤ 7 →
      chainOutput c ms k (encodeFrame 0 p payload) = encodeFrame (BitVec.ofNat 3 k) p payload := by
    intro k
    induction k with
    | zero => exact fun _ => rfl
    | succ k ih =>
      intro hk
      have ha : BitVec.ofNat 3 k ≠ 7 := by bv_omega
      rw [chainOutput, ih (by omega), boardOutput_encodeFrame p hc hqueue (hms k) hpayload ha hsize, BitVec.ofNat_add]
      rfl
  refine ⟨hchain, ?_⟩
  rw [chainOutput, hchain 7 le_rfl]
  exact boardOutput_encodeFrame_reserved p hc hqueue (hms 7) hpayload

end Sys2Proof.Machine

/-! SUPPORT. RESET (R260, R263). -/

namespace Sys2Proof.Machine

/-- Settles O7: RESET answers the state after reset, with the symbols already pushed. -/
theorem resetPutsBlockInPowerUpState : Obligations.ResetPutsBlockInPowerUpState :=
  fun _ => ⟨_, rfl, rfl, rfl, rfl, rfl, rfl, rfl, rfl, rfl, rfl, rfl, rfl, rfl, rfl, rfl⟩

/-- Settles O8: what RESET takes over from the state before it. -/
theorem resetLeavesTheRest : Obligations.ResetLeavesTheRest := by
  intro s t h
  cases h
  exact ⟨fun _ => rfl, rfl, rfl, rfl, rfl, rfl⟩

end Sys2Proof.Machine

/-! SUPPORT. The idle tracker over `k` idle periods in a row (R141, R262): the whole state behind them. -/

namespace Sys2Proof.Machine

/-- The state `k` idle periods after a tracker reset in `s`: counted, and with the Idle Frame sent from the threshold
on (R35, R36, R262). -/
def State.afterIdle (s : State) (k : Nat) : State :=
  { (if s.cfg.idleThreshold ≤ k then microPushIdle s else s) with idleCnt := BitVec.ofNat 8 (min k 255) }

section
variable {s : State} {k : Nat}

theorem State.afterIdle_of_lt (h : k < s.cfg.idleThreshold) :
    s.afterIdle k = { s with idleCnt := BitVec.ofNat 8 (min k 255) } := by
  rw [State.afterIdle, if_neg (Nat.not_le.mpr h)]

theorem State.afterIdle_of_le (h : s.cfg.idleThreshold ≤ k) :
    s.afterIdle k = { microPushIdle s with idleCnt := BitVec.ofNat 8 (min k 255) } := by
  rw [State.afterIdle, if_pos h]

theorem State.toNat_afterIdle_idleCnt : (s.afterIdle k).idleCnt.toNat = min k 255 := by
  have hcount : (s.afterIdle k).idleCnt = BitVec.ofNat 8 (min k 255) := rfl
  rw [hcount, BitVec.toNat_ofNat]
  omega

theorem satInc_afterIdle_idleCnt : satInc (s.afterIdle k).idleCnt = BitVec.ofNat 8 (min (k + 1) 255) := by
  rw [satInc, State.toNat_afterIdle_idleCnt]
  congr 1
  omega

/-- One more idle period: the Idle Frame is due in the one that reaches the threshold, and in no other. -/
theorem exec_tick_afterIdle (hcfg : s.cfg.Legal) (hs : Ready s) (hdone : s.idleDone = false)
    (hactive : s.encActive = false) (hroom : k + 1 < s.cfg.idleThreshold ∨ s.roomFor 1 = true) :
    exec (.tick true) (s.afterIdle k) = .next (s.afterIdle (k + 1)) := by
  obtain ⟨-, -, -, hmax, -⟩ := hcfg
  have hdue := idleDue_idleTicked_iff true (s.afterIdle k)
  have hcount := satInc_afterIdle_idleCnt (s := s) (k := k)
  rw [State.toNat_afterIdle_idleCnt] at hdue
  by_cases hsent : s.cfg.idleThreshold ≤ k
  · rw [State.afterIdle_of_le hsent] at hdue hcount ⊢
    rw [State.afterIdle_of_le (hsent.trans (Nat.le_succ k)), ← hcount]
    refine execTick_of_not_due fun h => ?_
    obtain ⟨-, -, hnot, -⟩ := hdue.mp h
    cases hnot
  · have hlt := Nat.lt_of_not_le hsent
    rw [State.afterIdle_of_lt hlt] at hdue hcount ⊢
    by_cases hreach : s.cfg.idleThreshold ≤ k + 1
    · have hle : s.cfg.idleThreshold ≤ min (min k 255 + 1) 255 := by omega
      rw [State.afterIdle_of_le hreach, ← hcount]
      exact execTick_of_due (hdue.mpr ⟨hle, rfl, hdone, hactive⟩) hs (hroom.resolve_left (Nat.not_lt.mpr hreach))
    · rw [State.afterIdle_of_lt (Nat.lt_of_not_le hreach), ← hcount]
      refine execTick_of_not_due fun h => hreach ?_
      obtain ⟨hle, -⟩ := hdue.mp h
      change s.cfg.idleThreshold ≤ _ at hle
      omega

/-- `IDLEWAIT k` (R98) after a tracker reset. -/
theorem execAll_idleWaitOps (hcfg : s.cfg.Legal) (hs : Ready s) (hcount : s.idleCnt = 0) (hdone : s.idleDone = false)
    (hactive : s.encActive = false) (hroom : k < s.cfg.idleThreshold ∨ s.roomFor 1 = true) :
    execAll (idleWaitOps k) s = .next (s.afterIdle k) := by
  induction k with
  | zero =>
    obtain ⟨-, -, hpos, -⟩ := hcfg
    have hzero : s.afterIdle 0 = s := by
      rw [State.afterIdle_of_lt hpos, show BitVec.ofNat 8 (min 0 255) = s.idleCnt from hcount.symm]
    rw [hzero]
    rfl
  | succ k ih =>
    have hwait := ih (hroom.imp_left (Nat.lt_trans (Nat.lt_succ_self k)))
    rw [idleWaitOps, List.replicate_succ']
    exact (execAll_append hwait).trans (execAll_cons (exec_tick_afterIdle hcfg hs hdone hactive hroom))

end

/-- Settles O17: induction on the idle periods, with the whole state after each. -/
theorem idleFrameSentOnceAtThreshold : Obligations.IdleFrameSentOnceAtThreshold := by
  intro k s hcfg hs hroom hcount hdone hactive
  refine ⟨s.afterIdle k, execAll_idleWaitOps hcfg hs hcount hdone hactive hroom, ?_, State.toNat_afterIdle_idleCnt⟩
  by_cases hlt : k < s.cfg.idleThreshold
  · rw [State.afterIdle_of_lt hlt, if_pos hlt]
    exact (List.append_nil _).symm
  · rw [State.afterIdle_of_le (Nat.le_of_not_lt hlt), if_neg hlt]
    rfl

end Sys2Proof.Machine

/-! SUPPORT. What a relay call that has found a data unit still owes the outgoing stream (R205 to R207): it depends on
the closed cells up to the end of that unit only, and each micro-step pays of it what it pushes. -/

namespace Sys2Proof.Machine

/-! ## The first unit and what closes behind it -/

section
variable {cs new : List Byte} (hnew : startsUnit new = true)
include hnew

theorem startsUnit_append : startsUnit (cs ++ new) = startsUnit cs := by
  cases cs with
  | nil => exact hnew
  | cons c cs => rfl

theorem unitBody_append : unitBody (cs ++ new) = unitBody cs := by
  induction cs with
  | nil => exact (unitBody_eq_nil_iff new).mpr hnew
  | cons c cs ih =>
    simp only [unitBody, List.cons_append, List.takeWhile_cons] at ih ⊢
    rw [ih]

end

/-- The body of a unit that goes on has a first cell. -/
theorem exists_unitBody_eq_cons {cs : List Byte} (h : startsUnit cs = false) :
    ∃ c cs', cs = c :: cs' ∧ unitBody cs = c :: unitBody cs' := by
  cases cs with
  | nil => cases h
  | cons c cs =>
    have hbody : isStart c = false := h
    exact ⟨c, cs, rfl, by simp [unitBody, hbody]⟩

/-- A snapshot sees the same end of the unit at `tail` as the closed cells show (R58, R201). -/
theorem AtCell.unitEnds_eq_startsUnit {s : State} {h : Nat} {u : Byte} {cs : List Byte} (hat : AtCell s h u)
    (hs : BufferOk s) (hcells : s.closedCells = u :: cs) : unitEnds s h = startsUnit cs := by
  rw [← Machine.unitEnds_eq_startsUnit hs hcells]
  cases hends : unitEnds s h with
  | true => exact ((unitEnds_head_iff s).mpr (hat.boundary_inc hends)).symm
  | false =>
    obtain ⟨hnext, hbody⟩ := unitEnds_eq_false hends
    have hs' := (bufferOk_consumed hs (hat.tail_ne_head hs.index)).index
    obtain ⟨hsnap, hne, -⟩ := hat
    have hhead : s.inc s.tail ≠ s.head := (snapshot_consumed hs.index hsnap hne).tail_ne_head hs' hnext
    rw [unitEnds_of_inc_ne hhead]
    simpa [isBody] using hbody

/-! ## What is owed -/

/-- A relay call with the micro-steps `ms` to do, before the closed cells `cells`, owes the bytes `bs`: what is left of
the first unit, a data unit, and the Soft-Overflow report. Where the test of `ovf` found nothing to report, the call
ends with the report still owed. -/
inductive Owes : (cells : List Byte) → (ms : List Micro) → (bs : List Byte) → Prop where
  | done {cells} : Owes cells [] []
  | unreported {cells} : Owes cells [] softFrame
  | testAndClear {cells} : Owes cells [.testAndClear] softFrame
  | startFrame {cells ms bs} (b : Byte) (hrest : Owes cells ms bs) : Owes cells (.startFrame b :: ms) (b :: bs)
  | push {cells ms bs} (b : Byte) (hrest : Owes cells ms bs) : Owes cells (.push b :: ms) (b :: bs)
  | readHead {u cs} (hu : isLegalStart u = true) (hidle : u = idleByte → startsUnit cs = false) :
    Owes (u :: cs) [.readHead] (forwardBytes u (unitBody cs) ++ softFrame)
  | readUnit {h u cs} (hu : isLegalStart u = true) (hidle : u = idleByte → startsUnit cs = false) :
    Owes (u :: cs) [.readUnit h] (forwardBytes u (unitBody cs) ++ softFrame)
  | peekIdle {h cs} (hbody : startsUnit cs = false) :
    Owes (idleByte :: cs) [.peekIdle h] (forwardBytes idleByte (unitBody cs) ++ softFrame)
  | peekStart {h u cs} :
    Owes (u :: cs) [.peekStart h u, .testAndClear] (forwardBytes u (unitBody cs) ++ softFrame)
  | takeStart {h u last cs} (hlast : last = startsUnit cs) :
    Owes (u :: cs) [.takeStart h u last, .testAndClear] (forwardBytes u (unitBody cs) ++ softFrame)
  | readBody {h d cs} (hbody : startsUnit cs = false) :
    Owes cs [.readBody h d, .testAndClear] (repairLast d (unitBody cs) ++ softFrame)
  | peekBody {h d b cs} :
    Owes (b :: cs) [.peekBody h d b, .testAndClear] (repairLast d (b :: unitBody cs) ++ softFrame)
  | takeBody {h d b last cs} (hlast : last = startsUnit cs) :
    Owes (b :: cs) [.takeBody h d b last, .testAndClear] (repairLast d (b :: unitBody cs) ++ softFrame)

/-- Units that close behind the first one change nothing of what is owed (R201). -/
theorem Owes.append {cells new : List Byte} {ms : List Micro} {bs : List Byte} (h : Owes cells ms bs)
    (hnew : startsUnit new = true) : Owes (cells ++ new) ms bs := by
  induction h with
  | done => exact .done
  | unreported => exact .unreported
  | testAndClear => exact .testAndClear
  | startFrame b _ ih => exact .startFrame b ih
  | push b _ ih => exact .push b ih
  | readHead hu hidle =>
    rw [← unitBody_append hnew]
    exact .readHead hu fun e => (startsUnit_append hnew).trans (hidle e)
  | readUnit hu hidle =>
    rw [← unitBody_append hnew]
    exact .readUnit hu fun e => (startsUnit_append hnew).trans (hidle e)
  | peekIdle hbody =>
    rw [← unitBody_append hnew]
    exact .peekIdle ((startsUnit_append hnew).trans hbody)
  | peekStart =>
    rw [← unitBody_append hnew]
    exact .peekStart
  | takeStart hlast =>
    rw [← unitBody_append hnew]
    exact .takeStart (hlast.trans (startsUnit_append hnew).symm)
  | readBody hbody =>
    rw [← unitBody_append hnew]
    exact .readBody ((startsUnit_append hnew).trans hbody)
  | peekBody =>
    rw [← unitBody_append hnew]
    exact .peekBody
  | takeBody hlast =>
    rw [← unitBody_append hnew]
    exact .takeBody (hlast.trans (startsUnit_append hnew).symm)

/-- What is owed depends on the closed cells only, wherever the state holds them. -/
theorem Owes.congr {s t : State} {ms : List Micro} {bs : List Byte} (h : Owes s.closedCells ms bs)
    (hcfg : t.cfg = s.cfg) (hbuf : t.buf = s.buf) (htail : t.tail = s.tail) (hhead : t.head = s.head) :
    Owes t.closedCells ms bs := by
  rwa [closedCells_congr hcfg hbuf htail hhead]

/-- Of the bytes `bs`, owed when the stream was `o`, some have been pushed, and the state `t` owes the others. -/
def Pays (o : List Symbol) (bs : List Byte) (t : State) : Prop :=
  ∃ sent owed, bs = sent ++ owed ∧ t.out = o ++ symbols sent ∧ Owes t.closedCells t.todo owed

section
variable {o : List Symbol} {bs : List Byte} {s t : State}

theorem Owes.pays (hout : t.out = o) (h : Owes t.closedCells t.todo bs) : Pays o bs t :=
  ⟨[], bs, rfl, by simp [hout, symbols], h⟩

/-- What is paid of the rest is paid of the whole. -/
theorem Pays.trans (h : Pays o bs s) (ht : ∀ owed, Owes s.closedCells s.todo owed → Pays s.out owed t) :
    Pays o bs t := by
  obtain ⟨sent, owed, rfl, hout, howes⟩ := h
  obtain ⟨sent', owed', rfl, hout', howes'⟩ := ht owed howes
  exact ⟨sent ++ sent', owed', by simp, by simp [hout', hout, symbols], howes'⟩

/-- The micro-steps `ms` come before those left. -/
theorem Pays.before {cells : List Byte} {ms rest : List Micro} (hcells : s.closedCells = cells) (hr : s.todo = rest)
    (h : Owes cells (ms ++ rest) bs) : Pays s.out bs (s.before ms) := by
  subst hcells hr
  exact Owes.pays rfl (h.congr (t := s.before ms) rfl rfl rfl rfl)

end

/-! ## The relay's micro-steps -/

section
variable {s : State} (hs : BufferOk s)
include hs

theorem microReadHead_pays {u : Byte} {cs : List Byte} (hr : s.todo = []) (hcells : s.closedCells = u :: cs)
    (hu : isLegalStart u = true) (hidle : u = idleByte → startsUnit cs = false) :
    Pays s.out (forwardBytes u (unitBody cs) ++ softFrame) (microReadHead s) := by
  obtain ⟨hne, -, -⟩ := closedCells_cons hs.index hcells
  rw [microReadHead, if_neg hne]
  exact .before hcells hr (.readUnit hu hidle)

theorem forwardData_pays {h : Nat} {u : Byte} {cs : List Byte} (hr : s.todo = []) (hcells : s.closedCells = u :: cs)
    (hat : AtCell s h u) : Pays s.out (forwardBytes u (unitBody cs) ++ softFrame) (forwardData h u s) := by
  unfold forwardData
  split
  · have hlast : true = startsUnit cs := (unitEnds_of_inc_eq ‹_›).symm.trans (hat.unitEnds_eq_startsUnit hs hcells)
    exact .before hcells hr (.takeStart hlast)
  · exact .before hcells hr .peekStart

theorem microReadUnit_pays {h : Nat} {u : Byte} {cs : List Byte} {t : State} (hr : s.todo = [])
    (hcells : s.closedCells = u :: cs) (hu : isLegalStart u = true) (hidle : u = idleByte → startsUnit cs = false)
    (hsnap : Snapshot s h) (hne : s.tail ≠ h) (hm : microReadUnit h s = .next t) :
    Pays s.out (forwardBytes u (unitBody cs) ++ softFrame) t := by
  obtain ⟨-, hcell, -⟩ := closedCells_cons hs.index hcells
  have hat : AtCell s h u := ⟨hsnap, hne, hcell⟩
  have hends := hat.unitEnds_eq_startsUnit hs hcells
  rw [microReadUnit, dispatchUnit, hcell] at hm
  by_cases hu' : u = idleByte
  · obtain ⟨hnext, -⟩ := unitEnds_eq_false (hends.trans (hidle hu'))
    rw [if_pos hu', if_neg hnext] at hm
    cases hm
    subst hu'
    exact .before hcells hr (.peekIdle (hidle rfl))
  · rw [if_neg hu', if_neg (not_isPseudo_of_isLegalStart hu), if_pos hu] at hm
    cases hm
    exact forwardData_pays hs hr hcells hat

theorem microPeekIdle_pays {h : Nat} {cs : List Byte} (hr : s.todo = []) (hcells : s.closedCells = idleByte :: cs)
    (hbody : startsUnit cs = false) (hat : AtCell s h idleByte) :
    Pays s.out (forwardBytes idleByte (unitBody cs) ++ softFrame) (microPeekIdle h s) := by
  obtain ⟨-, hnext⟩ := unitEnds_eq_false ((hat.unitEnds_eq_startsUnit hs hcells).trans hbody)
  rw [microPeekIdle, if_neg (by simpa [isBody] using hnext)]
  exact forwardData_pays hs hr hcells hat

theorem microPeekStart_pays {h : Nat} {u : Byte} {cs : List Byte} (hr : s.todo = [.testAndClear])
    (hcells : s.closedCells = u :: cs) (hat : AtCell s h u) (hnext : s.inc s.tail ≠ h) :
    Pays s.out (forwardBytes u (unitBody cs) ++ softFrame) (microPeekStart h u s) :=
  .before hcells hr (.takeStart ((unitEnds_of_inc_ne hnext).symm.trans (hat.unitEnds_eq_startsUnit hs hcells)))

theorem microTakeStart_pays {u : Byte} {cs : List Byte} (h : Nat) (hr : s.todo = [.testAndClear])
    (hcells : s.closedCells = u :: cs) :
    Pays s.out (forwardBytes u (unitBody cs) ++ softFrame) (microTakeStart h u (startsUnit cs) s) := by
  obtain ⟨-, -, hcells'⟩ := closedCells_cons hs.index hcells
  unfold microTakeStart
  cases hlast : startsUnit cs with
  | true =>
    rw [(unitBody_eq_nil_iff cs).mpr hlast]
    exact .before hcells' hr (.startFrame _ .testAndClear)
  | false => exact .before hcells' hr (.startFrame _ (.readBody hlast))

theorem microReadBody_pays {h : Nat} {d : Byte} {cs : List Byte} (hr : s.todo = [.testAndClear])
    (hcells : s.closedCells = cs) (hbody : startsUnit cs = false) (hsnap : Snapshot s h) (hne : s.tail ≠ h) :
    Pays s.out (repairLast d (unitBody cs) ++ softFrame) (microReadBody h d s) := by
  obtain ⟨b, cs, rfl, hunit⟩ := exists_unitBody_eq_cons hbody
  obtain ⟨-, hcell, -⟩ := closedCells_cons hs.index hcells
  have hat : AtCell s h b := ⟨hsnap, hne, hcell⟩
  rw [hunit, microReadBody, hcell]
  split
  · have hlast : true = startsUnit cs := (unitEnds_of_inc_eq ‹_›).symm.trans (hat.unitEnds_eq_startsUnit hs hcells)
    exact .before hcells hr (.takeBody hlast)
  · exact .before hcells hr .peekBody

theorem microPeekBody_pays {h : Nat} {d b : Byte} {cs : List Byte} (hr : s.todo = [.testAndClear])
    (hcells : s.closedCells = b :: cs) (hat : AtCell s h b) (hnext : s.inc s.tail ≠ h) :
    Pays s.out (repairLast d (b :: unitBody cs) ++ softFrame) (microPeekBody h d b s) :=
  .before hcells hr (.takeBody ((unitEnds_of_inc_ne hnext).symm.trans (hat.unitEnds_eq_startsUnit hs hcells)))

theorem microTakeBody_pays {b : Byte} {cs : List Byte} (h : Nat) (d : Byte) (hr : s.todo = [.testAndClear])
    (hcells : s.closedCells = b :: cs) :
    Pays s.out (repairLast d (b :: unitBody cs) ++ softFrame) (microTakeBody h d b (startsUnit cs) s) := by
  obtain ⟨-, -, hcells'⟩ := closedCells_cons hs.index hcells
  unfold microTakeBody
  cases hlast : startsUnit cs with
  | true =>
    rw [(unitBody_eq_nil_iff cs).mpr hlast]
    exact .before hcells' hr (.push _ .testAndClear)
  | false =>
    obtain ⟨c, cs', -, hunit⟩ := exists_unitBody_eq_cons hlast
    have hrest := Owes.readBody (h := h) (d := d) hlast
    rw [hunit] at hrest ⊢
    exact .before hcells' hr (.push b hrest)

end

/-- The report is pushed, or it stays owed (R66, R207). -/
theorem microTestAndClear_pays {s : State} (hr : s.todo = []) : Pays s.out softFrame (microTestAndClear s) := by
  obtain ⟨-, e⟩ | ⟨-, e⟩ := microTestAndClear_cases s <;> rw [e]
  · exact .before (s := s.ovfCleared) rfl hr (.startFrame _ (.push _ (.push _ (.push _ .done))))
  · exact Owes.pays rfl (hr ▸ .unreported)

/-- A push pays the byte it pushes. -/
theorem Owes.pays_cons {s t : State} {b : Byte} {bs : List Byte} (h : Owes s.closedCells s.todo bs)
    (hframe : PollFrame s t) (htail : t.tail = s.tail) (htodo : t.todo = s.todo) (hout : t.out = s.out ++ [.byte b]) :
    Pays s.out (b :: bs) t :=
  ⟨[b], bs, rfl, hout, htodo ▸ h.congr hframe.cfg hframe.buf htail hframe.head⟩

/-- Every micro-step of a call that has found a data unit pays what it owes. -/
theorem Owes.microStep_pays {s t : State} {m : Micro} {rest : List Micro} {bs : List Byte}
    (howes : Owes s.closedCells (m :: rest) bs) (hs : BufferOk s) (hr : s.todo = rest)
    (hpos : RelayPos s (m :: rest)) (hm : microStep m s = .next t) : Pays s.out bs t := by
  generalize hcells : s.closedCells = cells at howes
  have hframe := microStep_pollFrame hm
  cases howes with
  | testAndClear => cases hm; exact microTestAndClear_pays hr
  | startFrame b hrest =>
    cases hm
    subst hr hcells
    exact hrest.pays_cons hframe rfl rfl rfl
  | push b hrest =>
    cases hm
    subst hr hcells
    exact hrest.pays_cons hframe rfl rfl rfl
  | readHead hu hidle => cases hm; exact microReadHead_pays hs hr hcells hu hidle
  | readUnit hu hidle =>
    cases hpos with
    | readUnit hsnap hne => exact microReadUnit_pays hs hr hcells hu hidle hsnap hne hm
  | peekIdle hbody =>
    cases hm
    cases hpos with
    | peekIdle hat => exact microPeekIdle_pays hs hr hcells hbody hat
  | peekStart =>
    cases hm
    cases hpos with
    | peekStart hat _ hnext => exact microPeekStart_pays hs hr hcells hat hnext
  | takeStart hlast =>
    cases hm
    subst hlast
    exact microTakeStart_pays hs _ hr hcells
  | readBody hbody =>
    cases hm
    cases hpos with
    | readBody hsnap hne => exact microReadBody_pays hs hr hcells hbody hsnap hne
  | peekBody =>
    cases hm
    cases hpos with
    | peekBody hat _ hnext => exact microPeekBody_pays hs hr hcells hat hnext
  | takeBody hlast =>
    cases hm
    subst hlast
    exact microTakeBody_pays hs _ _ hr hcells

end Sys2Proof.Machine

/-! SUPPORT. A POLL that finds a data unit first, under any schedule of arriving bytes and drainer steps (R61, R270):
every step keeps that the call owes what it has not pushed of that unit and the report behind it. -/

namespace Sys2Proof.Machine

/-! ## Runs of steps -/

/-- A run of one step more begins with a step that answers a next state. -/
theorem exists_step_of_core_run {k : Nat} {s t : State} (h : Host.Core.run Sys2Proof.core (k + 1) s = .next t) :
    ∃ u, step s = .next u ∧ Host.Core.run Sys2Proof.core k u = .next t := by
  cases hu : step s with
  | next u => exact ⟨u, rfl, (core_run_succ hu k).symm.trans h⟩
  | fault f =>
    have hf : Sys2Proof.core.step s = .fault f := hu
    simp [Host.Core.run, hf] at h
  | refused x =>
    have hx : Sys2Proof.core.step s = .refused x := hu
    simp [Host.Core.run, hx] at h

/-- What every step keeps holds wherever a run stands. -/
theorem core_run_induction {P : State → Prop} (hstep : ∀ s t, P s → step s = .next t → P t) {k : Nat} {s t : State}
    (hs : P s) (h : Host.Core.run Sys2Proof.core k s = .next t) : P t := by
  induction k generalizing s with
  | zero => cases h; exact hs
  | succ k ih =>
    obtain ⟨u, hu, hrun⟩ := exists_step_of_core_run h
    exact ih (hstep s u hs hu) hrun

/-! ## A call under a schedule of arrivals -/

/-- A relay call, in progress or at its end, that owes of `bs` what it has not pushed behind `o`; no further command
is scheduled. -/
structure Forwarding (o : List Symbol) (bs : List Byte) (t : State) : Prop where
  relay : RelayInv t
  async : onlyAsync t.agenda = true
  pays  : Pays o bs t

section
variable {o : List Symbol} {bs : List Byte} {s t : State}

/-- The schedule and the queue's occupancy are read by none of it but the clause on the schedule. -/
theorem Forwarding.of_same (h : Forwarding o bs s) {es : List Event} (q : Nat) (hes : onlyAsync es = true) :
    Forwarding o bs { s with agenda := es, queued := q } := by
  obtain ⟨⟨hb, hpos, hlen⟩, -, sent, owed, htotal, hout, howes⟩ := h
  exact ⟨⟨hb, hpos.grows hb hb.index (.of_eq rfl rfl rfl rfl), hlen⟩, hes,
    sent, owed, htotal, hout, howes.congr rfl rfl rfl rfl⟩

/-- Whatever arrives, the call owes the same (R70, R201). -/
theorem Forwarding.rxByte (h : Forwarding o bs s) (b : Byte) (fe ovr : Bool) :
    Forwarding o bs (rxByte b fe ovr s) := by
  obtain ⟨⟨hb, hpos, hlen⟩, hasync, sent, owed, htotal, hout, howes⟩ := h
  obtain ⟨hb', hgrows⟩ := rxByte_keepsBuffer b fe ovr s hb
  have hside := rxByte_samePollSide b fe ovr s
  obtain ⟨new, hcells, hnew⟩ := hgrows.closedCells hb.index hb'.index
  refine ⟨⟨hb', hside.todo ▸ hpos.grows hb hb'.index hgrows, hside.todo ▸ hlen⟩, hside.agenda ▸ hasync,
    sent, owed, htotal, hside.out.trans hout, ?_⟩
  rw [hside.todo, hcells]
  exact howes.append hnew

theorem Forwarding.microStep {m : Micro} {rest : List Micro} (h : Forwarding o bs s) (hto : s.todo = m :: rest)
    (hm : microStep m { s with todo := rest } = .next t) : Forwarding o bs t.ticked := by
  obtain ⟨⟨hb, hpos, hlen⟩, hasync, hpays⟩ := h
  rw [hto] at hpos hlen
  have hpos' : RelayPos { s with todo := rest } (m :: rest) :=
    hpos.grows hb hb.index (.of_eq rfl rfl rfl rfl)
  have hrelay : RelayInv t :=
    microStep_relayInv (s := { s with todo := rest }) hb rfl hpos' (Nat.le_of_succ_le hlen) hm
  have hpays' : Pays o bs t := hpays.trans fun owed howes => by
    rw [hto] at howes
    exact Owes.microStep_pays (s := { s with todo := rest }) (howes.congr rfl rfl rfl rfl) hb rfl hpos' hm
  have ht : Forwarding o bs t := ⟨hrelay, (microStep_agenda hm).symm ▸ hasync, hpays'⟩
  have hasync' : onlyAsync t.ticked.agenda = true := (ticked_agenda t).2.trans ht.async
  obtain ⟨es, hes⟩ := t.ticked_eq
  rw [hes] at hasync' ⊢
  exact ht.of_same t.queued hasync'

theorem Forwarding.run {n : Nat} (h : Forwarding o bs s) (hrun : run n s = .next t) : Forwarding o bs t :=
  run_induction (fun _ _ _ _ h _ hto hm => h.microStep hto hm) h hrun

/-- Every step keeps what the call owes (R270). -/
theorem Forwarding.step (h : Forwarding o bs s) (hstep : step s = .next t) : Forwarding o bs t := by
  have hasync := h.async
  obtain ⟨-, hresume⟩ | ⟨_, b, fe, ovr, es, ha, rfl⟩ | ⟨_, es, ha, rfl⟩ | ⟨_, es, i, -, ha, -, -⟩ | ⟨-, rfl⟩ :=
    step_cases hstep
  · exact h.run hresume
  · rw [ha] at hasync
    have h' : Forwarding o bs { s with agenda := es } := h.of_same s.queued hasync
    exact h'.rxByte b fe ovr
  · rw [ha] at hasync
    exact h.of_same _ hasync
  · rw [ha] at hasync
    cases hasync
  · exact h

/-- POLL before a data unit owes that unit and the report (R200, R205). -/
theorem execPoll_forwarding {u : Byte} {cs : List Byte} (hinv : Inv s) (ht : s.todo = [])
    (hcells : s.closedCells = u :: cs) (hu : isLegalStart u = true) (hidle : u = idleByte → startsUnit cs = false)
    (hasync : onlyAsync s.agenda = true) (h : execPoll s = .next t) :
    Forwarding s.out (forwardBytes u (unitBody cs) ++ softFrame) t := by
  obtain ⟨-, hunit⟩ := hinv.at_rest ht
  obtain ⟨hb, -⟩ := hinv
  have howes : Owes s.closedCells [.readHead] (forwardBytes u (unitBody cs) ++ softFrame) :=
    hcells ▸ .readHead hu hidle
  unfold execPoll at h
  split at h
  · cases h
  · exact Forwarding.run (s := { s with todo := [.readHead] })
      ⟨⟨hb, .readHead hunit, by simp⟩, hasync, Owes.pays rfl (howes.congr rfl rfl rfl rfl)⟩ h

end

/-- A call that has ended owes the report at most. -/
theorem Owes.length_le_of_ended {cells owed : List Byte} (h : Owes cells [] owed) :
    owed.length ≤ softFrame.length := by
  cases h with
  | done => exact Nat.zero_le _
  | unreported => exact Nat.le_refl _

/-- What a call has pushed of the bytes `bs` and the report behind them. -/
theorem Pays.exists_take {o : List Symbol} {bs : List Byte} {t : State} (h : Pays o (bs ++ softFrame) t) :
    ∃ n, t.out = o ++ symbols ((bs ++ softFrame).take n) ∧ (t.todo = [] → bs.length ≤ n) := by
  obtain ⟨sent, owed, htotal, hout, howes⟩ := h
  refine ⟨sent.length, by rw [htotal, List.take_left, hout], fun hend => ?_⟩
  have hle := (hend ▸ howes).length_le_of_ended
  have hlen := congrArg List.length htotal
  simp only [List.length_append] at hlen
  omega

/-- The command word of POLL (R94), with any counter value beside it. -/
theorem decode_poll (now : Nat) : decode ⟨0x5000, now⟩ = .ok .poll := by
  have hword : OpRow.holds ⟨0xFFFF, 0x5000, fun _ _ => .poll⟩ 0x5000 = true := by decide
  exact decode_of_holds (c := ⟨0x5000, now⟩) (List.mem_of_getElem? (i := 7) rfl) hword

/-- Settles O38: the first step begins the POLL, and every step behind it keeps what the call owes. -/
theorem relayedUnitIndependentOfArrivals : Obligations.RelayedUnitIndependentOfArrivals := by
  intro s u cs now es hinv ht _ hcells hu hidle hagenda hasync k t hrun
  cases k with
  | zero =>
    cases hrun
    refine ⟨0, by simp [symbols], fun _ hlen => ?_⟩
    rw [hagenda, List.length_cons] at hlen
    omega
  | succ k =>
    obtain ⟨t₁, hstep, hrun'⟩ := exists_step_of_core_run hrun
    rw [step_of_issue ht hagenda (decode_poll now)] at hstep
    have hcells' : { s with agenda := es }.closedCells = u :: cs := by
      rw [← hcells]
      exact closedCells_congr rfl rfl rfl rfl
    have hcall := execPoll_forwarding (inv_withAgenda es hinv) ht hcells' hu hidle hasync hstep
    obtain ⟨n, hout, hend⟩ := (core_run_induction (fun _ _ => Forwarding.step) hcall hrun').pays.exists_take
    exact ⟨n, hout, fun htodo _ => hend htodo⟩

end Sys2Proof.Machine
